-- ==== Sys2Proof/Word.lean ====
section
/-! DEFINITION. The word types of the CA-CORE codec engine (00_scope.md R7, R10, R11). -/

namespace Sys2Proof

/-- A register word: `REG_WIDTH` = 32 bits, unsigned (R7, R10). -/
abbrev Word := BitVec 32

/-- A byte of system memory (R150). -/
abbrev Byte := BitVec 8

/-- A bit string, written left to right, index 0 first (R11). -/
abbrev Bits := List Bool

/-- A pattern of the LZW dictionary: a byte string (R16, R900). -/
abbrev Pattern := List Byte

end Sys2Proof
end

