-- ==== Sys2Proof/Config.lean ====
section
/-! DEFINITION. What is fixed for one build of the engine: the parameters of 00_scope.md R7, and the free value. -/

namespace Sys2Proof.Config

/-- `2^ADDR_WIDTH`: the number of bytes of system memory (R7, R150). -/
def addrSpace : Nat := 2 ^ 32

/-- The largest value a 32-bit register holds; a reported length saturates there (R14, R303). -/
def wordMax : Nat := 2 ^ 32 - 1

/-- `MAX_LEAVES` (R7). -/
def maxLeaves : Nat := 256

/-- `MAX_NODES` (R7): the number of NODE entries, and so a bound on the length of every path of a tree. -/
def maxNodes : Nat := 511

/-- The constant of the ID register: DEVICE 0x484C, REVISION 1 (R54). -/
def idValue : Word := 0x484C0001#32

/-- The size of the register block in bytes (R53). -/
def blockSize : Nat := 0x4000

/-- THE FREE VALUE (log 5): the `w` bits that the `draw`-th open choice of a run takes for its `index`-th
value. The spec says "any value", so it has no body and nothing can be proved of it. -/
opaque freeValue (draw index w : Nat) : BitVec w

end Sys2Proof.Config

namespace Sys2Proof

/-- What an engine byte access does (R7, R13). -/
inductive AccessKind where
  | read
  | write
deriving DecidableEq, Repr

/-- A range of addresses `lo ≤ a < hi` whose reads, writes or both the platform refuses (R7, `P_MEM_OK`). -/
structure DeniedRange where
  lo : Nat
  hi : Nat
  reads : Bool
  writes : Bool
deriving DecidableEq, Repr

/-- The OPEN parameters of R7. They are data of the state, so that a statement about every state is a
statement about every platform; no step changes them (log 3). Any predicate `P_MEM_OK` over the 2^32 addresses
is a finite list of refused ranges. -/
structure Platform where
  /-- `P_LZW_DICT_MAX`: the capacity of the LZW dictionary, its 256 seeds included. -/
  lzwDictMax : Nat
  /-- `P_MMIO_BASE`: where the register block stands in the host's address space. -/
  mmioBase : Nat
  /-- `P_IRQ_LINE`: the platform interrupt input that the engine's output drives. -/
  irqLine : Nat
  /-- `P_MEM_OK`, as the ranges it refuses. -/
  denied : List DeniedRange
deriving DecidableEq, Repr

/-- The platform that stands in the reset state: DESIGN CHOICE (log 3), unsafe for a claim about the one run
from reset. The largest dictionary R7 allows, the block at address 0, line 0, every address accepted. -/
def Platform.atReset : Platform :=
  { lzwDictMax := 2 ^ 31, mmioBase := 0, irqLine := 0, denied := [] }

end Sys2Proof
end

