-- ==== Sys2Proof/Syntax.lean ====
section
/-! DEFINITION. The command set (30_encoding.md R202), the registers of the register block (10_state.md R53),
what the host can do between engine steps, and the host-script statements (30_encoding.md R213). -/

namespace Sys2Proof

/-- The 13 commands, one constructor per row of the opcode map (R202). A command word carries no operand
(R201), so no constructor has an argument. -/
inductive Instr where
  /-- complete at once (R310) -/
  | nop
  /-- discard the frequency table, tree, code table and results (R312) -/
  | clear
  /-- count the byte values of the SRC window (R400) -/
  | freqCount
  /-- build the Huffman tree from the FREQ window (R402) -/
  | treeBuild
  /-- generate the code table of the current tree (R501) -/
  | codeGen
  /-- write the canonical serialization of the current tree (R601) -/
  | treeSerialize
  /-- rebuild a tree from a serialization (R612) -/
  | treeDeserialize
  /-- pack the codes of the SRC bytes (R702) -/
  | bitPack
  /-- decode ORIG_LEN bytes from a packed stream (R712) -/
  | bitUnpack
  /-- compress into a Huffman container (R802) -/
  | hufCompress
  /-- decompress a Huffman container (R812) -/
  | hufDecompress
  /-- compress into an LZW container (R902) -/
  | lzwCompress
  /-- decompress an LZW container (R912) -/
  | lzwDecompress
deriving DecidableEq, Repr

/-- The registers and window words of the register block (R53). -/
inductive Reg where
  | id
  | ctrl
  | status
  | cmd
  | srcAddr
  | srcLen
  | dstAddr
  | dstCap
  | resultLen
  | origLen
  | leafCount
  | nodeCount
  | root
  | codeWidth
  | maxCode
  | dictSize
  | codeCount
  /-- FREQ[s] (R75) -/
  | freq (s : Byte)
  /-- CODE_LEN[s] (R76) -/
  | codeLen (s : Byte)
  /-- NODE_PRIO[i] (R80) -/
  | nodePrio (i : Fin 511)
  /-- NODE_LINK[i] (R80) -/
  | nodeLink (i : Fin 511)
  /-- CODE_BITS[s][k] (R77) -/
  | codeBits (s : Byte) (k : Fin 8)
deriving DecidableEq, Repr

/-- One access of the host (R50): to a bus address with a width in bits, or to system memory. -/
inductive HostOp where
  /-- a register write on the host's bus -/
  | busWrite (addr width : Nat) (v : Word)
  /-- a register read on the host's bus -/
  | busRead (addr width : Nat)
  /-- a register read of which the host's script states that it returns `v` (R213's `r32 REG -> v`) -/
  | busReadIs (addr width : Nat) (v : Word)
  /-- a store of one byte of system memory by the host (R1104, R1113) -/
  | memStore (addr : Nat) (b : Byte)
  /-- a load of one byte of system memory by the host (R164) -/
  | memLoad (addr : Nat)
  /-- R213's `wait`: read STATUS until BUSY reads 0 -/
  | waitIdle
deriving DecidableEq, Repr

/-- Whose turn a step is (R302, R1023; log 2). -/
inductive Turn where
  /-- the engine's: it runs the latched command if there is one -/
  | engine
  /-- the host's: one access -/
  | host (op : HostOp)
  /-- the platform drives the reset input (R1103) -/
  | reset
deriving DecidableEq, Repr

/-- The statements and pseudo-instructions of host scripts (R213). -/
inductive Stmt where
  | w32 (r : Reg) (v : Word)
  | r32 (r : Reg)
  /-- `r32 REG -> v` -/
  | r32Is (r : Reg) (v : Word)
  /-- the start-state directive `mem A: ...` -/
  | mem (a : Nat) (bs : List Byte)
  | cmd (m : Instr)
  | wait
  | run (m : Instr)
  | src (a n : Word)
  | dst (a n : Word)
  | ack
deriving DecidableEq, Repr

end Sys2Proof
end

