-- ==== Sys2Proof/WellFormed.lean ====
section
/-! DEFINITION. When a piece of syntax, or a platform, is one the spec admits. -/

namespace Sys2Proof

/-- R201: a command carries no operand, so there is nothing in an instruction that could be ill-formed. -/
def Instr.wf : Instr → Bool
  | .nop | .clear | .freqCount | .treeBuild | .codeGen | .treeSerialize | .treeDeserialize
  | .bitPack | .bitUnpack | .hufCompress | .hufDecompress | .lzwCompress | .lzwDecompress => true

/-- R7: `257 ≤ P_LZW_DICT_MAX ≤ 2^31`; the block base keeps 32-bit alignment (log 14); the refused ranges are
ranges of system-memory addresses. -/
def Platform.wf (p : Platform) : Bool :=
  decide (257 ≤ p.lzwDictMax) && decide (p.lzwDictMax ≤ 2 ^ 31) && decide (p.mmioBase % 4 = 0) &&
    p.denied.all fun r => decide (r.lo ≤ r.hi) && decide (r.hi ≤ Config.addrSpace)

/-- R90, R150: the host accesses the register block with aligned 32-bit words only, and system memory at
addresses that exist. -/
def HostOp.wf (p : Platform) : HostOp → Bool
  | .busWrite a w _ | .busRead a w | .busReadIs a w _ =>
    decide (w = 32) && decide (a % 4 = 0) && decide (p.mmioBase ≤ a) && decide (a < p.mmioBase + Config.blockSize)
  | .memStore a _ | .memLoad a => decide (a < Config.addrSpace)
  | .waitIdle => true

/-- A turn is well-formed when its host access is. -/
def Turn.wf (p : Platform) : Turn → Bool
  | .host op => op.wf p
  | .engine | .reset => true

/-- R213: a `mem` directive stays inside system memory; the other statements name registers and commands that
exist by their types. -/
def Stmt.wf : Stmt → Bool
  | .mem a bs => decide (a + bs.length ≤ Config.addrSpace)
  | .w32 _ _ | .r32 _ | .r32Is _ _ | .cmd _ | .wait | .run _ | .src _ _ | .dst _ _ | .ack => true

end Sys2Proof
end

