-- ==== Sys2Proof/Decode.lean ====
section
/-! DEFINITION. The command word: decoder and encoder, from the opcode map of 30_encoding.md R202. -/

namespace Sys2Proof

/-- Why a command word is illegal (R203, R1009). -/
inductive DecodeError where
  /-- a nonzero bit in `[31:8] RSVD` (R200) -/
  | reservedBits
  /-- an OPC with no row in the opcode map (R202) -/
  | unassignedOpcode
deriving DecidableEq, Repr

/-- The opcode map of R202: each assigned OPC with its command, in the table's order. -/
def opcodeMap : List (Byte × Instr) :=
  [ (0x00#8, .nop), (0x01#8, .clear),
    (0x10#8, .freqCount), (0x11#8, .treeBuild), (0x12#8, .codeGen), (0x13#8, .treeSerialize),
    (0x14#8, .treeDeserialize), (0x15#8, .bitPack), (0x16#8, .bitUnpack),
    (0x20#8, .hufCompress), (0x21#8, .hufDecompress),
    (0x30#8, .lzwCompress), (0x31#8, .lzwDecompress) ]

/-- The command of the first row of a map whose OPC is `o`. -/
def rowOf (o : Byte) : List (Byte × Instr) → Option Instr
  | [] => none
  | (o', i) :: rows => if o = o' then some i else rowOf o rows

/-- R200, R202, R203: a word selects the row whose OPC is `word[7:0]` when `word[31:8] = 0`; every other word
is illegal, and its reason is named. -/
def decode (w : Word) : Except DecodeError Instr :=
  if BitVec.extractLsb' 8 24 w ≠ 0 then .error .reservedBits
  else
    match rowOf (BitVec.extractLsb' 0 8 w) opcodeMap with
    | some i => .ok i
    | none => .error .unassignedOpcode

/-- The OPC of a command (R202). -/
def opcodeOf : Instr → Byte
  | .nop => 0x00#8
  | .clear => 0x01#8
  | .freqCount => 0x10#8
  | .treeBuild => 0x11#8
  | .codeGen => 0x12#8
  | .treeSerialize => 0x13#8
  | .treeDeserialize => 0x14#8
  | .bitPack => 0x15#8
  | .bitUnpack => 0x16#8
  | .hufCompress => 0x20#8
  | .hufDecompress => 0x21#8
  | .lzwCompress => 0x30#8
  | .lzwDecompress => 0x31#8

/-- R200, R202: the command word of a command is its OPC, zero-extended to 32 bits. Every command is one
word (R204). -/
def encode (i : Instr) : Word := BitVec.setWidth 32 (opcodeOf i)

/-- The command word that an opcode-table row's `nbits` bits `w` stand for, when they fit one word: a
command word is one 32-bit register write (R155, R200), so no byte order enters (log 26). -/
def tableWord (nbits w : Nat) : Option Word :=
  if w % 2 ^ nbits < 2 ^ 32 then some (BitVec.ofNat 32 (w % 2 ^ nbits)) else none

/-- What the decoder reads from an opcode-table row's bits. -/
def decodeTableWord (nbits w : Nat) : Option Instr :=
  match tableWord nbits w with
  | none => none
  | some cw =>
    match decode cw with
    | .ok i => some i
    | .error _ => none

end Sys2Proof
end

