-- ==== Sys2Proof/Machine/Bits.lean ====
section
/-! DEFINITION. Bit strings, bytes and lengths: 00_scope.md R11, R12, R14; 30_encoding.md R205, R207, R208. -/

namespace Sys2Proof.Machine

/-- `ceil_div(a, b)`: the least `q` with `q * b ≥ a` (R14). -/
def ceilDiv (a b : Nat) : Nat := (a + b - 1) / b

/-- `bitlen(v)`: the least `k` with `v < 2^k`; `bitlen(0) = 0` (R11). -/
def bitlen (v : Nat) : Nat := if v = 0 then 0 else Nat.log2 v + 1

/-- `bin_k(v)`: the `k` low bits of `v`, most significant bit first (R11). -/
def bin : Nat → Nat → Bits
  | 0, _ => []
  | k + 1, v => v.testBit k :: bin k v

/-- `uint(s)` with `acc` already read: each bit shifts what was read before it (R11). -/
def uintFrom : Nat → Bits → Nat
  | acc, [] => acc
  | acc, b :: s => uintFrom (2 * acc + b.toNat) s

/-- `uint(s)`: the number whose most-significant-first digits are `s`; `uint("") = 0` (R11). -/
def uint (s : Bits) : Nat := uintFrom 0 s

/-- The byte of eight bits, its bit 7 first (R12). -/
def byteOf (s : Bits) : Byte := BitVec.ofNat 8 (uint s)

/-- `bits_of`: each byte contributes its bit 7 first (R12). -/
def bitsOf : List Byte → Bits
  | [] => []
  | b :: bs => bin 8 b.toNat ++ bitsOf bs

/-- The `while len(acc) >= 8` loop of R702: the oldest 8 bits leave as one byte as long as 8 are held; what
is left stays. -/
def emit : Bits → List Byte × Bits
  | b7 :: b6 :: b5 :: b4 :: b3 :: b2 :: b1 :: b0 :: rest =>
    let r := emit rest
    (byteOf [b7, b6, b5, b4, b3, b2, b1, b0] :: r.1, r.2)
  | acc => ([], acc)

/-- `bytes_of(s)` for `len(s)` a multiple of 8 (R12). -/
def bytesOf (s : Bits) : List Byte := (emit s).1

/-- How many bits are missing up to the next byte boundary after `n` bits. -/
def padCount (n : Nat) : Nat := (8 - n % 8) % 8

/-- `pad8(s)`: trailing zero bits up to the next byte boundary (R205). -/
def pad8 (s : Bits) : Bits := s ++ List.replicate (padCount s.length) false

/-- The padding zeros and the sentinel bit that stand before a payload of `n` bits (R208, R701). -/
def streamHead (n : Nat) : Bits := List.replicate (padCount (n + 1)) false ++ [true]

/-- `pack(S)`: padding zeros, the sentinel, then the payload, ending on a byte boundary (R208). -/
def pack (s : Bits) : List Byte := bytesOf (streamHead s.length ++ s)

/-- The number of bytes of a packed stream with `n` payload bits (R208). -/
def packedLen (n : Nat) : Nat := ceilDiv (n + 1) 8

/-- The number of leading zero bits of a byte (R208, R710): 0 to 7 for a nonzero byte. -/
def leadingZeros (b : Byte) : Nat := 8 - bitlen b.toNat

/-- The payload bits of a stream of bytes: everything after the first byte's leading zeros and the
sentinel (R208, R710). -/
def payloadBits (bs : List Byte) : Bits :=
  match bs with
  | [] => []
  | b0 :: _ => (bitsOf bs).drop (leadingZeros b0 + 1)

/-- `unpack(B)`: the payload of a stream; malformed when it is empty or its first byte is 0 (R208). -/
def unpack (bs : List Byte) : Option Bits :=
  match bs with
  | [] => none
  | b0 :: _ => if b0 = 0#8 then none else some (payloadBits bs)

/-- The bit accumulator of R703: each chunk is appended in order, and whole bytes leave as soon as they are
there. Answers the bytes that left and the bits still held. -/
def accumulate : Bits → List Bits → List Byte × Bits
  | acc, [] => ([], acc)
  | acc, c :: cs =>
    let e := emit (acc ++ c)
    let r := accumulate e.2 cs
    (e.1 ++ r.1, r.2)

/-- The bytes pass 2 of R702 writes for chunks of `n` payload bits in all. -/
def packChunks (n : Nat) (chunks : List Bits) : List Byte := (accumulate (streamHead n) chunks).1

/-- `T(L)`: the bytes of the preorder traversal of a tree of `L` leaves (R207). -/
def treeBytes (l : Nat) : Nat := ceilDiv (10 * l - 1) 8

/-- A 16-bit big-endian field (R154, R206). -/
def be16 (n : Nat) : List Byte := [BitVec.ofNat 8 (n / 2 ^ 8), BitVec.ofNat 8 n]

/-- A 32-bit big-endian field (R154, R209). -/
def be32 (n : Nat) : List Byte :=
  [BitVec.ofNat 8 (n / 2 ^ 24), BitVec.ofNat 8 (n / 2 ^ 16), BitVec.ofNat 8 (n / 2 ^ 8), BitVec.ofNat 8 n]

/-- The number a big-endian byte sequence stands for (R154). -/
def beNat : List Byte → Nat := fun bs => bs.foldl (fun acc b => 256 * acc + b.toNat) 0

/-- The 256 byte values, ascending. -/
def allBytes : List Byte := (List.range 256).map (BitVec.ofNat 8)

end Sys2Proof.Machine
end

