-- ==== Sys2Proof/Machine/State.lean ====
section
/-! DEFINITION. The state of the engine, its memory and its surroundings, as plain data; why a step can stop; the
state after reset (70_reset_and_hazards.md R1100). -/

namespace Sys2Proof.Machine

/-- The STATUS register's fields (R56). The reserved bits `[7:6]` and `[31:12]` read 0 and ignore writes, so no
bit of the state stands for them (log 17). -/
structure Status where
  /-- `[0]`: 1 while a command runs; the sequencer state of R51 -/
  busy : Bool
  /-- `[1]`: a command completed without error -/
  done : Bool
  /-- `[2]`: a command completed with an error -/
  err : Bool
  /-- `[3]`: a CMD write was dropped -/
  dropped : Bool
  /-- `[4]`: the NODE window holds a valid tree -/
  treeValid : Bool
  /-- `[5]`: the code windows hold the code table of the current tree -/
  codesValid : Bool
  /-- `[11:8]`: the error code of the last completed command -/
  ecode : BitVec 4
deriving DecidableEq, Repr

/-- The CTRL register's fields (R55); `[31:2]` read 0 and ignore writes. -/
structure Ctrl where
  /-- `[0]`: the compress commands refuse a container that is not smaller than the input -/
  nogainEn : Bool
  /-- `[1]`: enables the interrupt output -/
  irqEn : Bool
deriving DecidableEq, Repr

/-- The command and arguments latched at launch (R85). -/
structure Latch where
  cmd : Word
  srcAddr : Word
  srcLen : Word
  dstAddr : Word
  dstCap : Word
  origLen : Word
  nogainEn : Bool
deriving DecidableEq, Repr

/-- One entry of the NODE window (R80): NODE_PRIO, and the fields of NODE_LINK, whose bits `[30:26]` read 0. -/
structure Node where
  prio : Word
  leaf : Bool
  value : Byte
  left : BitVec 9
  right : BitVec 9
deriving DecidableEq, Repr

/-- A NODE entry that holds 0 in both words. -/
def Node.zero : Node := { prio := 0#32, leaf := false, value := 0#8, left := 0#9, right := 0#9 }

/-- The bytes of system memory that differ from what an unlisted byte reads as, addresses rising (R150; log 4). -/
abbrev Memory := List Host.Cell

/-- The NODE window (R80). -/
abbrev Nodes := Vector Node 511

/-- Everything the spec gives the machine, and five fields of the model's own (`turns`, `rdata`, `claimsMet`,
`disturbed`, `draw`). -/
structure State where
  /-- CTRL (R55) -/
  ctrl : Ctrl
  /-- STATUS (R56) -/
  status : Status
  /-- CMD: the last accepted command word (R57) -/
  cmd : Word
  /-- SRC_ADDR (R58) -/
  srcAddr : Word
  /-- SRC_LEN (R59) -/
  srcLen : Word
  /-- DST_ADDR (R60) -/
  dstAddr : Word
  /-- DST_CAP (R61) -/
  dstCap : Word
  /-- RESULT_LEN (R62) -/
  resultLen : Word
  /-- ORIG_LEN (R63) -/
  origLen : Word
  /-- LEAF_COUNT[8:0] (R64) -/
  leafCount : BitVec 9
  /-- NODE_COUNT[9:0] (R65) -/
  nodeCount : BitVec 10
  /-- ROOT[8:0] (R66) -/
  root : BitVec 9
  /-- CODE_WIDTH[4:0] (R67) -/
  codeWidth : BitVec 5
  /-- MAX_CODE (R68) -/
  maxCode : Word
  /-- DICT_SIZE (R69) -/
  dictSize : Word
  /-- CODE_COUNT (R70) -/
  codeCount : Word
  /-- FREQ[0..255] (R75) -/
  freq : Vector Word 256
  /-- CODE_LEN[0..255], bits [7:0] (R76) -/
  codeLen : Vector Byte 256
  /-- CODE_BITS[0..255]: the eight words of a byte value as one 256-bit number (R77) -/
  codeBits : Vector (BitVec 256) 256
  /-- NODE[0..510] (R80) -/
  nodes : Nodes
  /-- the latches (R85) -/
  latch : Latch
  /-- system memory (R150) -/
  mem : Memory
  /-- the OPEN parameters of R7 (log 3) -/
  plat : Platform
  /-- the MODEL's own: whose turns come next; when none is left, the engine's (log 2) -/
  turns : List Turn
  /-- the MODEL's own: the value the last host read returned (log 16) -/
  rdata : Word
  /-- the MODEL's own: every read of a script that states its value (R213) returned that value (log 22) -/
  claimsMet : Bool
  /-- the MODEL's own: a host store hit a window of the running command (R1113; log 8) -/
  disturbed : Bool
  /-- the MODEL's own: the number of the next free value (log 5) -/
  draw : Nat
deriving DecidableEq, Repr

/-- The error codes of R1000, without 0 (no error) and the reserved 14 and 15. -/
inductive ErrCode where
  | emptyInput
  | noGain
  | corruptTree
  | unknownCode
  | lengthMismatch
  | format
  | limit
  | outOfSpace
  | badCommand
  | badArgs
  | busError
  | sequence
  | noCode
deriving DecidableEq, Repr

/-- Why the machine stops with a fault. -/
inductive Fault where
  /-- Raised by a host load or store (`memLoad`, `memStore`) of a system-memory address at or above 2^32, which
  R150 says does not exist. Safe: no claim is proved of what such an access does. -/
  | absentAddress (addr : Nat)
  /-- Raised by a command that reads the current tree when STATUS.TREE_VALID = 1 and the NODE window holds no
  tree. R81 says this is never so; the spec gives no effect (log 12). Safe: no run reaches it, and nothing is
  claimed beyond it. -/
  | treeWindowBroken
deriving DecidableEq, Repr

/-- Why a step has no meaning. -/
inductive Refusal where
  /-- Raised by an arm of `exec` for a command without a meaning; no arm raises it. Safe. -/
  | notModelled (mnemonic : String)
  /-- Raised by a register-block access that is not an aligned 32-bit word: outside the interface (R90,
  93_implementation_defined.md I3, treatment `refuse`). Safe. -/
  | registerAccess (addr width : Nat)
  /-- Raised by a host bus access outside the 16 KiB register block (R53, R151): no part of this machine
  answers it (log 14). Safe. -/
  | outsideBlock (addr : Nat)
deriving DecidableEq, Repr

/-- The machine right after a reset (R1100). Memory lists nothing (R1101 says a reset does not touch memory; what it
holds at power-on is log 4), the platform is that of log 3, and no turn is scheduled (log 1). -/
def State.reset : State :=
  { ctrl := { nogainEn := true, irqEn := false }
    status := { busy := false, done := false, err := false, dropped := false, treeValid := false,
                codesValid := false, ecode := 0#4 }
    cmd := 0#32
    srcAddr := 0#32
    srcLen := 0#32
    dstAddr := 0#32
    dstCap := 0#32
    resultLen := 0#32
    origLen := 0#32
    leafCount := 0#9
    nodeCount := 0#10
    root := 0#9
    codeWidth := 0#5
    maxCode := 0#32
    dictSize := 0#32
    codeCount := 0#32
    freq := Vector.replicate 256 0#32
    codeLen := Vector.replicate 256 0#8
    codeBits := Vector.replicate 256 0#256
    nodes := Vector.replicate 511 Node.zero
    latch := { cmd := 0#32, srcAddr := 0#32, srcLen := 0#32, dstAddr := 0#32, dstCap := 0#32,
               origLen := 0#32, nogainEn := false }
    mem := []
    plat := Platform.atReset
    turns := []
    rdata := 0#32
    claimsMet := true
    disturbed := false
    draw := 0 }

end Sys2Proof.Machine
end

