-- ==== Sys2Proof/Machine/Flags.lean ====
section
/-! DEFINITION. STATUS and CTRL as words, the error codes, every change of STATUS, and the interrupt output. -/

namespace Sys2Proof.Machine

/-- `code(X)`: the ECODE of an error (R1000). -/
def ErrCode.code : ErrCode → BitVec 4
  | .emptyInput => 1#4
  | .noGain => 2#4
  | .corruptTree => 3#4
  | .unknownCode => 4#4
  | .lengthMismatch => 5#4
  | .format => 6#4
  | .limit => 7#4
  | .outOfSpace => 8#4
  | .badCommand => 9#4
  | .badArgs => 10#4
  | .busError => 11#4
  | .sequence => 12#4
  | .noCode => 13#4

/-- A single bit at position `i` of a register word. -/
def bitAt (i : Nat) (b : Bool) : Word := if b then BitVec.ofNat 32 (2 ^ i) else 0#32

/-- What a read of STATUS returns (R56). -/
def Status.word (t : Status) : Word :=
  bitAt 0 t.busy ||| bitAt 1 t.done ||| bitAt 2 t.err ||| bitAt 3 t.dropped ||| bitAt 4 t.treeValid |||
    bitAt 5 t.codesValid ||| (BitVec.setWidth 32 t.ecode <<< 8)

/-- What a read of CTRL returns (R55). -/
def Ctrl.word (c : Ctrl) : Word := bitAt 0 c.nogainEn ||| bitAt 1 c.irqEn

/-- What CTRL holds after a write of `v` (R55): both fields take the written bits, the rest is ignored. -/
def Ctrl.ofWord (v : Word) : Ctrl := { nogainEn := v.getLsbD 0, irqEn := v.getLsbD 1 }

/-- A host write to STATUS (R56): a 1 clears DONE, ERR or DROPPED; the other bits are read-only. -/
def Status.w1c (v : Word) (t : Status) : Status :=
  { t with
    done := t.done && !v.getLsbD 1
    err := t.err && !v.getLsbD 2
    dropped := t.dropped && !v.getLsbD 3 }

/-- STATUS at launch (R300): DONE and ERR go, BUSY comes; DROPPED and the rest stay. -/
def Status.launched (t : Status) : Status := { t with done := false, err := false, busy := true }

/-- STATUS when a CMD write is dropped (R301). -/
def Status.droppedCmd (t : Status) : Status := { t with dropped := true }

/-- STATUS at a completion without error (R303). -/
def Status.completed (t : Status) : Status := { t with ecode := 0#4, done := true, busy := false }

/-- STATUS at a completion with an error (R303). -/
def Status.failed (e : ErrCode) (t : Status) : Status := { t with ecode := e.code, err := true, busy := false }

/-- The interrupt output (R87, R1020): level-sensitive, a function of the registers. -/
def State.irq (s : State) : Bool := s.ctrl.irqEn && (s.status.done || s.status.err)

/-- The level the engine drives on a platform interrupt input (R87, R1021): irq on `P_IRQ_LINE`, nothing on
another input. -/
def State.irqLevel (s : State) (line : Nat) : Bool := decide (line = s.plat.irqLine) && s.irq

end Sys2Proof.Machine
end

