-- ==== Sys2Proof/Machine/Ops.lean ====
section
/-! DEFINITION. The shared operations: windows of 256 and 511 entries, system memory, the named updates of the
state, and the end of a command (40_control.md R303, R305). -/

namespace Sys2Proof.Machine

/-! ### Table windows -/

/-- The entry of byte value `b` in a window of 256 entries. -/
def atByte {α : Type} (v : Vector α 256) (b : Byte) : α := v[b.toNat]'b.isLt

/-- A window of 256 entries with the entry of byte value `b` replaced. -/
def setByte {α : Type} (v : Vector α 256) (b : Byte) (x : α) : Vector α 256 := v.set b.toNat x b.isLt

/-- NODE[i] (R80); an index past the window (no command forms one, R611) reads as a zero entry. -/
def nodeAt (ns : Nodes) (i : Nat) : Node := ns[i]?.getD Node.zero

/-- The NODE window with NODE[i] replaced; an index past the window changes nothing. -/
def setNode (ns : Nodes) (i : Nat) (n : Node) : Nodes := ns.setIfInBounds i n

/-- The NODE window with every entry 0. -/
def zeroNodes : Nodes := Vector.replicate 511 Node.zero

/-- The FREQ window with every entry 0. -/
def zeroFreq : Vector Word 256 := Vector.replicate 256 0#32

/-! ### System memory (R150, R157; log 4) -/

/-- What a byte that nothing has written reads as: DESIGN CHOICE 0 (log 4). -/
def unlistedByte : Byte := 0#8

/-- The byte at an address. -/
def Memory.read : Memory → Nat → Byte
  | [], _ => unlistedByte
  | (a', b') :: m, a => if a = a' then b' else Memory.read m a

/-- Writing one byte; the list stays in canonical form. -/
def Memory.write : Memory → Nat → Byte → Memory
  | [], a, b => if b = unlistedByte then [] else [(a, b)]
  | (a', b') :: m, a, b =>
    if a < a' then (if b = unlistedByte then (a', b') :: m else (a, b) :: (a', b') :: m)
    else if a = a' then (if b = unlistedByte then m else (a, b) :: m)
    else (a', b') :: Memory.write m a b

/-- The canonical form, for addresses from `lo` on: strictly rising, inside the address space, and no entry that
an unlisted address would read as. -/
def Memory.wfFrom : Nat → Memory → Bool
  | _, [] => true
  | lo, (a, b) :: m =>
    decide (lo ≤ a) && decide (a < Config.addrSpace) && decide (b ≠ unlistedByte) && Memory.wfFrom (a + 1) m

/-- The canonical form. -/
def Memory.wf (m : Memory) : Bool := Memory.wfFrom 0 m

/-- The `n` bytes from `a` on, in address order, whether or not the platform accepts the accesses. -/
def Memory.peek (m : Memory) : Nat → Nat → List Byte
  | _, 0 => []
  | a, n + 1 => m.read a :: Memory.peek m (a + 1) n

/-- Writing a byte sequence to the addresses from `a` on, in address order. -/
def Memory.poke : Memory → Nat → List Byte → Memory
  | m, _, [] => m
  | m, a, b :: bs => Memory.poke (m.write a b) (a + 1) bs

/-- Each of the `n` bytes from `a` on takes a free value, the `draw`-th choice at that address (R163). -/
def Memory.scramble (draw : Nat) : Memory → Nat → Nat → Memory
  | m, _, 0 => m
  | m, a, n + 1 => Memory.scramble draw (m.write a (Config.freeValue draw a 8)) (a + 1) n

/-- `P_MEM_OK(addr, kind)` (R7, R13). -/
def memOk (p : Platform) (kind : AccessKind) (a : Nat) : Bool :=
  !p.denied.any fun r =>
    decide (r.lo ≤ a) && decide (a < r.hi) && (match kind with | .read => r.reads | .write => r.writes)

/-- Every one of the `n` byte accesses from `a` on is accepted. -/
def allOk (p : Platform) (kind : AccessKind) : Nat → Nat → Bool
  | _, 0 => true
  | a, n + 1 => memOk p kind a && allOk p kind (a + 1) n

/-- How many of the `n` byte accesses from `a` on are accepted before the first refused one. -/
def okCount (p : Platform) (kind : AccessKind) : Nat → Nat → Nat
  | _, 0 => 0
  | a, n + 1 => if memOk p kind a then okCount p kind (a + 1) n + 1 else 0

/-- `MemRead(a, n)` (R13): the bytes, or nothing when an access is refused (BUS_ERROR, R1011). -/
def memRead (p : Platform) (m : Memory) (a n : Nat) : Option (List Byte) :=
  if allOk p .read a n then some (m.peek a n) else none

/-- The bytes a command reads one by one from `a` on before the first refused access (R13). -/
def readable (p : Platform) (m : Memory) (a n : Nat) : List Byte := m.peek a (okCount p .read a n)

/-! ### Named updates of the state -/

/-- STATUS becomes `t`. -/
def State.setStatus (t : Status) (s : State) : State := { s with status := t }

/-- RESULT_LEN becomes `n` (R62). -/
def State.setResultLen (n : Nat) (s : State) : State := { s with resultLen := BitVec.ofNat 32 n }

/-- ORIG_LEN becomes `n` (R63). -/
def State.setOrigLen (n : Nat) (s : State) : State := { s with origLen := BitVec.ofNat 32 n }

/-- The FREQ window becomes `f` (R75). -/
def State.setFreq (f : Vector Word 256) (s : State) : State := { s with freq := f }

/-- TREE_VALID and CODES_VALID become 0 and the NODE window `ns`: the start of every command that writes the
window, and what a parse that fails leaves (R82, R612). -/
def State.setNodes (ns : Nodes) (s : State) : State :=
  { s with nodes := ns, status := { s.status with treeValid := false, codesValid := false } }

/-- A finished tree (R402, R612): the NODE window, ROOT, LEAF_COUNT = `l`, NODE_COUNT = 2l - 1, TREE_VALID = 1. -/
def State.setTree (ns : Nodes) (root l : Nat) (s : State) : State :=
  { s with
    nodes := ns
    root := BitVec.ofNat 9 root
    leafCount := BitVec.ofNat 9 l
    nodeCount := BitVec.ofNat 10 (2 * l - 1)
    status := { s.status with treeValid := true, codesValid := false } }

/-- A finished code table (R501): CODE_LEN, CODE_BITS, CODES_VALID = 1. -/
def State.setCodes (len : Vector Byte 256) (bits : Vector (BitVec 256) 256) (s : State) : State :=
  { s with codeLen := len, codeBits := bits, status := { s.status with codesValid := true } }

/-- The four LZW result registers (R67 to R70). -/
def State.setLzw (width mx count size : Nat) (s : State) : State :=
  { s with
    codeWidth := BitVec.ofNat 5 width
    maxCode := BitVec.ofNat 32 mx
    codeCount := BitVec.ofNat 32 count
    dictSize := BitVec.ofNat 32 size }

/-- System memory becomes `m`. -/
def State.setMem (m : Memory) (s : State) : State := { s with mem := m }

/-- The number of bytes of a window that stand below 2^32 (R150: the others do not exist). -/
def clipLen (a n : Nat) : Nat := min n (Config.addrSpace - a)

/-- Every byte of the latched DST window takes a free value (R163; log 6). -/
def State.scrambleDst (s : State) : State :=
  { s with
    mem := s.mem.scramble s.draw s.latch.dstAddr.toNat (clipLen s.latch.dstAddr.toNat s.latch.dstCap.toNat)
    draw := s.draw + 1 }

/-! ### The end of a command: completion and raise (R303, R305, R1015, R1024) -/

/-- How a command's pseudocode ends: at its last line, at a `raise X` or `raise X(n)` with what was assigned
before it (`n = 0` where the raise reports no length, R303), or in a state for which the spec has no
meaning. -/
inductive Ending where
  | done (s : State)
  | raised (e : ErrCode) (n : Nat) (s : State)
  | stuck (f : Fault)
deriving DecidableEq, Repr

/-- The end of a command: STATUS becomes `t`, and no command is running that a host store could have
disturbed. -/
def State.complete (t : Status) (s : State) : State := { s with status := t, disturbed := false }

/-- R303, the one completion: STATUS and, after a raise, RESULT_LEN, saturated at 2^32 - 1. An error saves
nothing and goes nowhere (R1024), and there is no return from it (R1025). -/
def Ending.finish : Ending → Host.Outcome State Fault Refusal
  | .done s => .next (s.complete s.status.completed)
  | .raised e n s => .next ((s.setResultLen (min n Config.wordMax)).complete (s.status.failed e))
  | .stuck f => .fault f

/-- Running on after a part of a pseudocode that may raise. -/
def Ending.andThen (e : Ending) (k : State → Ending) : Ending :=
  match e with
  | .done s => k s
  | .raised x n s => .raised x n s
  | .stuck f => .stuck f

/-- A raise at or after the command's first MemWrite when `late`, before it otherwise (R162, R163). -/
def raiseAt (late : Bool) (e : ErrCode) (s : State) : Ending :=
  .raised e 0 (if late then s.scrambleDst else s)

/-- The writes of `out` from DST_ADDR on, then `RESULT_LEN <- n`; a refused write is a BUS_ERROR at or after
the first MemWrite (R13, R161, R163). -/
def writeDst (out : List Byte) (n : Nat) (s : State) : Ending :=
  if allOk s.plat .write s.latch.dstAddr.toNat out.length then
    .done ((s.setMem (s.mem.poke s.latch.dstAddr.toNat out)).setResultLen n)
  else raiseAt true .busError s

end Sys2Proof.Machine
end

