-- ==== Sys2Proof/Machine/Operands.lean ====
section
/-! DEFINITION. A command's operands: its latched windows and their checks (20_memory.md R152, R153), what it
writes, and the frame every command runs in (40_control.md R302, R304; 70_reset_and_hazards.md R1113). -/

namespace Sys2Proof.Machine

/-- Does the command use the SRC window (R202)? -/
def usesSrc : Instr → Bool
  | .freqCount | .treeDeserialize | .bitPack | .bitUnpack | .hufCompress | .hufDecompress
  | .lzwCompress | .lzwDecompress => true
  | .nop | .clear | .treeBuild | .codeGen | .treeSerialize => false

/-- Does the command use the DST window (R202)? -/
def usesDst : Instr → Bool
  | .treeSerialize | .bitPack | .bitUnpack | .hufCompress | .hufDecompress | .lzwCompress | .lzwDecompress => true
  | .nop | .clear | .freqCount | .treeBuild | .codeGen | .treeDeserialize => false

/-- The latched operands, as numbers (R85, R14). -/
def State.srcA (s : State) : Nat := s.latch.srcAddr.toNat

/-- The latched SRC_LEN. -/
def State.srcN (s : State) : Nat := s.latch.srcLen.toNat

/-- The latched DST_ADDR. -/
def State.dstA (s : State) : Nat := s.latch.dstAddr.toNat

/-- The latched DST_CAP. -/
def State.dstN (s : State) : Nat := s.latch.dstCap.toNat

/-- A window that does not run past address 2^32 - 1 (R153). -/
def windowFits (a n : Nat) : Bool := decide (a + n ≤ Config.addrSpace)

/-- Two windows that share a byte (R153). -/
def windowsOverlap (sa sn da dn : Nat) : Bool :=
  decide (0 < sn) && decide (0 < dn) && decide (sa < da + dn) && decide (da < sa + sn)

/-- The common window checks of a command (R153, R304 (2)): SRC, DST, then overlap; each fails with
BAD_ARGS. -/
def windowsOk (i : Instr) (s : State) : Bool :=
  (!usesSrc i || windowFits s.srcA s.srcN) && (!usesDst i || windowFits s.dstA s.dstN) &&
    (!(usesSrc i && usesDst i) || !windowsOverlap s.srcA s.srcN s.dstA s.dstN)

/-- An address lies in a window. -/
def inWindow (a0 n a : Nat) : Bool := decide (a0 ≤ a) && decide (a < a0 + n)

/-- An address lies in the DST window of a command that uses one (R202, log 8). -/
def inDst (i : Instr) (s : State) (a : Nat) : Bool := usesDst i && inWindow s.dstA s.dstN a

/-- An address lies in a window that the command uses (R202, R1113, log 8). -/
def inWindows (i : Instr) (s : State) (a : Nat) : Bool :=
  (usesSrc i && inWindow s.srcA s.srcN a) || inDst i s a

/-! ### Outputs that may be any value (R1113, 93_implementation_defined.md I4; log 8) -/

/-- The groups of registers and windows a command writes, beside STATUS and RESULT_LEN. -/
structure Outputs where
  freq : Bool
  tree : Bool
  codes : Bool
  origLen : Bool
  lzw : Bool
deriving DecidableEq, Repr

/-- What each command writes (the "Operands" and "Status written" lines of its rule). The tree group holds
TREE_VALID and CODES_VALID, the code group CODES_VALID (R82). -/
def outputsOf : Instr → Outputs
  | .nop => { freq := false, tree := false, codes := false, origLen := false, lzw := false }
  | .clear => { freq := true, tree := true, codes := true, origLen := true, lzw := true }
  | .freqCount => { freq := true, tree := false, codes := false, origLen := false, lzw := false }
  | .treeBuild => { freq := false, tree := true, codes := false, origLen := false, lzw := false }
  | .codeGen => { freq := false, tree := false, codes := true, origLen := false, lzw := false }
  | .treeSerialize => { freq := false, tree := false, codes := false, origLen := false, lzw := false }
  | .treeDeserialize => { freq := false, tree := true, codes := false, origLen := false, lzw := false }
  | .bitPack => { freq := false, tree := false, codes := false, origLen := false, lzw := false }
  | .bitUnpack => { freq := false, tree := false, codes := false, origLen := false, lzw := false }
  | .hufCompress => { freq := true, tree := true, codes := true, origLen := true, lzw := false }
  | .hufDecompress => { freq := false, tree := true, codes := false, origLen := true, lzw := false }
  | .lzwCompress => { freq := false, tree := false, codes := false, origLen := false, lzw := true }
  | .lzwDecompress => { freq := false, tree := false, codes := false, origLen := false, lzw := true }

end Sys2Proof.Machine
end

