-- ==== Sys2Proof/Machine/Tree.lean ====
section
/-! DEFINITION. The tree of the NODE window (00_scope.md R15, 10_state.md R80, R81) and the code table of a tree
(42_code_table.md R500 to R502, 10_state.md R76, R77, R82). -/

namespace Sys2Proof.Machine

/-- A full binary tree whose leaves carry byte values (R16, DOC's Node and Tree). -/
inductive Tree where
  | leaf (v : Byte)
  | node (l r : Tree)
deriving DecidableEq, Repr

/-- The tree that stands at a NODE index, followed by LEFT and RIGHT links; nothing when a path is longer than
the fuel (a path of a tree visits each of the 511 entries at most once, log 28). -/
def subtree : Nat → Nodes → Nat → Option Tree
  | 0, _, _ => none
  | f + 1, ns, i =>
    if (nodeAt ns i).leaf then some (.leaf (nodeAt ns i).value)
    else
      match subtree f ns (nodeAt ns i).left.toNat with
      | none => none
      | some l =>
        match subtree f ns (nodeAt ns i).right.toNat with
        | none => none
        | some r => some (.node l r)

/-- The NODE indices reached from an index, each as often as it is reached, in preorder (R81). -/
def reach : Nat → Nodes → Nat → Option (List Nat)
  | 0, _, _ => none
  | f + 1, ns, i =>
    if (nodeAt ns i).leaf then some [i]
    else
      match reach f ns (nodeAt ns i).left.toNat with
      | none => none
      | some l =>
        match reach f ns (nodeAt ns i).right.toNat with
        | none => none
        | some r => some (i :: (l ++ r))

/-- The leaf values of a tree, left to right. -/
def Tree.leaves : Tree → List Byte
  | .leaf v => [v]
  | .node l r => l.leaves ++ r.leaves

/-- `tree at x[ROOT]`: the current tree of the NODE window (R15). -/
def State.tree (s : State) : Option Tree := subtree Config.maxNodes s.nodes s.root.toNat

/-- R81: the NODE window, ROOT, NODE_COUNT and LEAF_COUNT hold a valid tree: the indices reached from ROOT are
exactly `0 .. N-1`, each once, with `L` leaves of pairwise distinct values. -/
def treeValid (ns : Nodes) (root l n : Nat) : Bool :=
  decide (1 ≤ l) && decide (l ≤ Config.maxLeaves) && decide (n = 2 * l - 1) && decide (root < n) &&
    (match reach Config.maxNodes ns root with
      | none => false
      | some is => decide (is.length = n) && is.all (fun i => decide (i < n)) && decide is.Nodup) &&
    (match subtree Config.maxNodes ns root with
      | none => false
      | some t => decide (t.leaves.length = l) && decide t.leaves.Nodup)

/-- R81's condition of the current registers. -/
def State.treeOk (s : State) : Bool := treeValid s.nodes s.root.toNat s.leafCount.toNat s.nodeCount.toNat

/-! ### Code tables -/

/-- The CODE_LEN and CODE_BITS windows (R76, R77). -/
structure CodeTable where
  len : Vector Byte 256
  bits : Vector (BitVec 256) 256
deriving DecidableEq, Repr

/-- The code table with no code: both windows 0. -/
def zeroTable : CodeTable := { len := Vector.replicate 256 0#8, bits := Vector.replicate 256 0#256 }

/-- Byte value `v` gets the code `p` (R76, R77, R501): its length, and its number with the first bit most
significant. -/
def CodeTable.put (t : CodeTable) (v : Byte) (p : Bits) : CodeTable :=
  { len := setByte t.len v (BitVec.ofNat 8 p.length), bits := setByte t.bits v (BitVec.ofNat 256 (uint p)) }

/-- R501's `walk`: LEFT appends 0, RIGHT appends 1, a code is recorded at each leaf (R500). -/
def Tree.walk : Tree → Bits → CodeTable → CodeTable
  | .leaf v, p, t => t.put v p
  | .node l r, p, t => r.walk (p ++ [true]) (l.walk (p ++ [false]) t)

/-- The code table of a tree (R501); the one value of a one-leaf tree gets the 1-bit code "0" (R502). -/
def Tree.codeTable : Tree → CodeTable
  | .leaf v => zeroTable.put v [false]
  | .node l r => (Tree.node l r).walk [] zeroTable

/-- `code(b)`: the CODE_LEN[b] bits of the number in CODE_BITS[b] (R700). -/
def codeOf (len : Vector Byte 256) (bits : Vector (BitVec 256) 256) (b : Byte) : Bits :=
  bin (atByte len b).toNat (atByte bits b).toNat

/-- Word `k` of CODE_BITS[s]: bits `[32k+31:32k]` of its number (R77). -/
def codeWord (bits : Vector (BitVec 256) 256) (s : Byte) (k : Nat) : Word :=
  BitVec.extractLsb' (32 * k) 32 (atByte bits s)

/-- R82's condition of the current windows: they hold the code table of the current tree. -/
def State.codesOk (s : State) : Bool :=
  match s.tree with
  | none => false
  | some t => decide (s.codeLen = t.codeTable.len) && decide (s.codeBits = t.codeTable.bits)

end Sys2Proof.Machine
end

