-- ==== Sys2Proof/Machine/Lifecycle.lean ====
section
/-! DEFINITION. The command lifecycle: launch (40_control.md R300, R301), the frame a command runs in (R302, R304), a
command whose windows were disturbed (70_reset_and_hazards.md R1113), an illegal word (R203), and reset (R1100 to
R1102). -/

namespace Sys2Proof.Machine

/-- R300: an accepted write of `w` to CMD. -/
def State.launch (w : Word) (s : State) : State :=
  { s with
    cmd := w
    status := s.status.launched
    latch :=
      { cmd := w, srcAddr := s.srcAddr, srcLen := s.srcLen, dstAddr := s.dstAddr, dstCap := s.dstCap,
        origLen := s.origLen, nogainEn := s.ctrl.nogainEn }
    disturbed := false }

/-- A host write of `w` to CMD: launched when the engine is idle (R300), dropped otherwise (R301). -/
def State.writeCmd (w : Word) (s : State) : State :=
  if s.status.busy then s.setStatus s.status.droppedCmd else s.launch w

/-- The command the latched word selects (R202, R304 (1)); none for an illegal word. -/
def State.command (s : State) : Option Instr :=
  match decode s.latch.cmd with
  | .ok i => some i
  | .error _ => none

/-- R203, R304 (1), R1009: an illegal word completes at once with BAD_COMMAND and no other effect. -/
def badCommand (s : State) : Host.Outcome State Fault Refusal := (Ending.raised .badCommand 0 s).finish

/-! ### Any value (R1113; log 8) -/

/-- A free bit. -/
def freeBit (draw index : Nat) : Bool := (Config.freeValue draw index 1).getLsbD 0

/-- A free error code among the codes a completion writes: 14 and 15 are never written (R1014). -/
def freeEcode (draw : Nat) : BitVec 4 :=
  if (Config.freeValue draw 0 4).toNat ≤ 13 then Config.freeValue draw 0 4 else 0#4

/-- A NODE window of free entries. -/
def freeNodes (draw : Nat) : Nodes :=
  Vector.ofFn fun i =>
    { prio := Config.freeValue draw i.val 32
      leaf := freeBit draw i.val
      value := Config.freeValue draw i.val 8
      left := Config.freeValue draw (2 * i.val) 9
      right := Config.freeValue draw (2 * i.val + 1) 9 }

/-- The registers and windows of the groups in `o` take free values. -/
def State.freeOutputs (o : Outputs) (s : State) : State :=
  { s with
    freq := if o.freq then Vector.ofFn fun i => Config.freeValue s.draw i.val 32 else s.freq
    nodes := if o.tree then freeNodes (s.draw + 1) else s.nodes
    root := if o.tree then Config.freeValue (s.draw + 2) 0 9 else s.root
    leafCount := if o.tree then Config.freeValue (s.draw + 2) 1 9 else s.leafCount
    nodeCount := if o.tree then Config.freeValue (s.draw + 2) 0 10 else s.nodeCount
    codeLen := if o.codes then Vector.ofFn fun i => Config.freeValue (s.draw + 3) i.val 8 else s.codeLen
    codeBits := if o.codes then Vector.ofFn fun i => Config.freeValue (s.draw + 3) i.val 256 else s.codeBits
    origLen := if o.origLen then Config.freeValue (s.draw + 4) 0 32 else s.origLen
    codeWidth := if o.lzw then Config.freeValue (s.draw + 5) 0 5 else s.codeWidth
    maxCode := if o.lzw then Config.freeValue (s.draw + 5) 1 32 else s.maxCode
    dictSize := if o.lzw then Config.freeValue (s.draw + 5) 2 32 else s.dictSize
    codeCount := if o.lzw then Config.freeValue (s.draw + 5) 3 32 else s.codeCount
    resultLen := Config.freeValue (s.draw + 6) 0 32
    draw := s.draw + 8 }

/-- The completion of a disturbed command (R1113): DONE or ERR, any error code, and any TREE_VALID and
CODES_VALID that R81 and R82 allow for what the windows hold (log 8). `d` is the draw number. -/
def State.freeCompletion (o : Outputs) (d : Nat) (s : State) : State :=
  let tv := if o.tree then freeBit d 0 && s.treeOk else s.status.treeValid
  let cv := if o.tree || o.codes then freeBit d 1 && tv && s.codesOk else s.status.codesValid
  { s with
    status :=
      { s.status with
        busy := false
        done := freeBit d 2
        err := !freeBit d 2
        treeValid := tv
        codesValid := cv
        ecode := freeEcode d }
    disturbed := false }

/-- R1113, 93_implementation_defined.md I4: every output of the command is any value, and the command still completes. -/
def State.anyOutputs (i : Instr) (s : State) : State :=
  ((if usesDst i then s.scrambleDst else s).freeOutputs (outputsOf i)).freeCompletion (outputsOf i) (s.draw + 8)

/-! ### The frame of a command -/

/-- A command that uses a window (R302, R304): the window checks, then its own pseudocode; any outputs when the
host stored into a window while it ran (R1113). -/
def windowed (i : Instr) (body : State → Ending) (s : State) : Host.Outcome State Fault Refusal :=
  if s.disturbed then .next (s.anyOutputs i)
  else if windowsOk i s then (body s).finish
  else (Ending.raised .badArgs 0 s).finish

/-- A command that uses no window (R304): no check comes before its own pseudocode. -/
def windowless (body : State → Ending) (s : State) : Host.Outcome State Fault Refusal := (body s).finish

/-! ### Reset -/

/-- A DST window that a reset finds in use: the running command's, when it has one (R1102, log 13). -/
def State.resetMem (s : State) : Memory :=
  match s.status.busy, s.command with
  | true, some i => if usesDst i then s.scrambleDst.mem else s.mem
  | _, _ => s.mem

/-- A reset of the block (R1100 to R1102): every register, window and latch takes its reset value; memory keeps its
bytes but for the DST window of a running command. The platform, the turns to come, the last read, the
script's claims and the count of free values are not the block's. -/
def State.hardReset (s : State) : State :=
  { State.reset with
    mem := s.resetMem
    plat := s.plat
    turns := s.turns
    rdata := s.rdata
    claimsMet := s.claimsMet
    draw := s.draw + 1 }

end Sys2Proof.Machine
end

