-- ==== Sys2Proof/Machine/Control.lean ====
section
/-! DEFINITION. NOP and CLEAR (40_control.md R310, R312). -/

namespace Sys2Proof.Machine

/-- R310: NOP's pseudocode, `RESULT_LEN <- 0`. -/
def nopBody (s : State) : Ending := .done (s.setResultLen 0)

/-- R310: NOP. -/
def execNop (s : State) : Host.Outcome State Fault Refusal := windowless nopBody s

/-- R312: every window and result register at its reset value. -/
def State.cleared (s : State) : State :=
  { s with
    status := { s.status with treeValid := false, codesValid := false }
    freq := zeroFreq
    codeLen := zeroTable.len
    codeBits := zeroTable.bits
    nodes := zeroNodes
    leafCount := 0#9
    nodeCount := 0#10
    root := 0#9
    origLen := 0#32
    codeWidth := 0#5
    maxCode := 0#32
    dictSize := 0#32
    codeCount := 0#32
    resultLen := 0#32 }

/-- R312: CLEAR's pseudocode. -/
def clearBody (s : State) : Ending := .done s.cleared

/-- R312: CLEAR. -/
def execClear (s : State) : Host.Outcome State Fault Refusal := windowless clearBody s

end Sys2Proof.Machine
end

