-- ==== Sys2Proof/Machine/BitPacker.lean ====
section
/-! DEFINITION. BIT_PACK and BIT_UNPACK (44_bit_packer.md; the stream is 30_encoding.md R208). -/

namespace Sys2Proof.Machine

/-! ### BIT_PACK -/

/-- `n` of R702's pass 1: the sum of the code lengths of the bytes. -/
def payloadLen (len : Vector Byte 256) (bs : List Byte) : Nat := (bs.map fun b => (atByte len b).toNat).sum

/-- R702: BIT_PACK's pseudocode. Pass 1 reads byte by byte: a byte without a code raises before a later byte's
refused read (log 19). Pass 2 reads the same bytes again and writes what the accumulator emits (R703). -/
def bitPackBody (s : State) : Ending :=
  if s.status.codesValid = false then .raised .sequence 0 s
  else if s.srcN = 0 then .raised .emptyInput 0 s
  else
    let bs := readable s.plat s.mem s.srcA s.srcN
    if bs.any (fun b => decide (atByte s.codeLen b = 0#8)) then .raised .noCode 0 s
    else if !allOk s.plat .read s.srcA s.srcN then .raised .busError 0 s
    else
      let n := payloadLen s.codeLen bs
      if s.dstN < packedLen n then .raised .outOfSpace (packedLen n) s
      else writeDst (packChunks n (bs.map (codeOf s.codeLen s.codeBits))) (packedLen n) s

/-- R702: BIT_PACK. -/
def execBitPack (s : State) : Host.Outcome State Fault Refusal := windowed .bitPack bitPackBody s

/-! ### BIT_UNPACK -/

/-- R711's walk from a node to a leaf: a 0 bit goes LEFT, a 1 bit RIGHT; nothing when the payload runs out. -/
def Tree.descend : Tree → Bits → Option (Byte × Bits)
  | .leaf v, bs => some (v, bs)
  | .node _ _, [] => none
  | .node l _, false :: bs => l.descend bs
  | .node _ r, true :: bs => r.descend bs

/-- R711: one symbol. With a one-leaf tree every symbol takes one bit, whatever its value (R713). -/
def Tree.decodeOne : Tree → Bits → Option (Byte × Bits)
  | .leaf _, [] => none
  | .leaf v, _ :: bs => some (v, bs)
  | .node l r, bs => (Tree.node l r).descend bs

/-- Is the tree a single leaf? -/
def Tree.isLeaf : Tree → Bool
  | .leaf _ => true
  | .node _ _ => false

/-- R712's loop: up to `n` symbols. Answers the symbols decoded, the bits left, and whether all `n` were
complete. -/
def Tree.decodeMany (t : Tree) : Nat → Bits → List Byte × Bits × Bool
  | 0, bs => ([], bs, true)
  | n + 1, bs =>
    match t.decodeOne bs with
    | none => ([], bs, false)
    | some (v, bs1) =>
      let r := t.decodeMany n bs1
      (v :: r.1, r.2)

/-- R712 from `b0 <- MemRead(…)` on, for the stream of `m` bytes at `a` and `n` symbols (HUF_DECOMPRESS reads the
same from a sub-window, R812). `bit(q)` reads the whole stream (R711, log 9). An error is late once a symbol
has been written (R162, R163). -/
def unpackBody (a m n : Nat) (s : State) : Ending :=
  match memRead s.plat s.mem a 1 with
  | none => .raised .busError 0 s
  | some b0 =>
    if beNat b0 = 0 then .raised .format 0 s
    else
      match s.tree with
      | none => .stuck .treeWindowBroken
      | some t =>
        let payload := payloadBits (s.mem.peek a m)
        if !t.isLeaf && !payload.isEmpty && !allOk s.plat .read a m then .raised .busError 0 s
        else
          let r := t.decodeMany n payload
          if !allOk s.plat .write s.dstA r.1.length then raiseAt true .busError s
          else if !r.2.2 then raiseAt (!r.1.isEmpty) .lengthMismatch s
          else if !r.2.1.isEmpty then raiseAt true .lengthMismatch s
          else writeDst r.1 n s

/-- R712: BIT_UNPACK's pseudocode. -/
def bitUnpackBody (s : State) : Ending :=
  let n := s.latch.origLen.toNat
  if s.status.treeValid = false then .raised .sequence 0 s
  else if n = 0 then .raised .format 0 s
  else if s.srcN = 0 then .raised .format 0 s
  else if s.dstN < n then .raised .outOfSpace n s
  else unpackBody s.srcA s.srcN n s

/-- R712: BIT_UNPACK. -/
def execBitUnpack (s : State) : Host.Outcome State Fault Refusal := windowed .bitUnpack bitUnpackBody s

end Sys2Proof.Machine
end

