-- ==== Sys2Proof/Machine/CodeGen.lean ====
section
/-! DEFINITION. CODE_GEN (42_code_table.md). -/

namespace Sys2Proof.Machine

/-- R501 from `STATUS.CODES_VALID <- 0` to `STATUS.CODES_VALID <- 1`: the table of the current tree. -/
def codesBody (s : State) : Ending :=
  match s.tree with
  | none => .stuck .treeWindowBroken
  | some t => .done (s.setCodes t.codeTable.len t.codeTable.bits)

/-- R501: CODE_GEN's pseudocode. -/
def codeGenBody (s : State) : Ending :=
  if s.status.treeValid = false then .raised .sequence 0 s
  else (codesBody s).andThen fun s1 => .done (s1.setResultLen 0)

/-- R501: CODE_GEN. -/
def execCodeGen (s : State) : Host.Outcome State Fault Refusal := windowless codeGenBody s

end Sys2Proof.Machine
end

