-- ==== Sys2Proof/Machine/TreeBuilder.lean ====
section
/-! DEFINITION. FREQ_COUNT and TREE_BUILD (41_tree_builder.md). -/

namespace Sys2Proof.Machine

/-! ### FREQ_COUNT -/

/-- R400's loop: each byte read adds 1 to its FREQ entry. -/
def countBytes : Vector Word 256 → List Byte → Vector Word 256
  | f, [] => f
  | f, b :: bs => countBytes (setByte f b (atByte f b + 1#32)) bs

/-- R400 after its prechecks: FREQ holds the counts of the bytes read; a refused read ends the command with the
counts so far. -/
def freqBody (s : State) : Ending :=
  let s1 := s.setFreq (countBytes zeroFreq (readable s.plat s.mem s.srcA s.srcN))
  if allOk s.plat .read s.srcA s.srcN then .done s1 else .raised .busError 0 s1

/-- R400: FREQ_COUNT's pseudocode. -/
def freqCountBody (s : State) : Ending :=
  if s.srcN = 0 then .raised .emptyInput 0 s
  else (freqBody s).andThen fun s1 => .done (s1.setResultLen 0)

/-- R400: FREQ_COUNT. -/
def execFreqCount (s : State) : Host.Outcome State Fault Refusal := windowed .freqCount freqCountBody s

/-! ### TREE_BUILD -/

/-- `syms` of R402: the byte values with a nonzero FREQ entry, ascending. -/
def symsOf (f : Vector Word 256) : List Byte := allBytes.filter fun b => decide (atByte f b ≠ 0#32)

/-- The sum over all byte values of FREQ[s] (R402). -/
def freqSum (f : Vector Word 256) : Nat := (allBytes.map fun b => (atByte f b).toNat).sum

/-- The leaves of R402: NODE[k], NODE[k+1], … for the byte values in order. -/
def placeLeaves (f : Vector Word 256) : Nodes → Nat → List Byte → Nodes
  | ns, _, [] => ns
  | ns, k, b :: bs =>
    placeLeaves f (setNode ns k { prio := atByte f b, leaf := true, value := b, left := 0#9, right := 0#9 }) (k + 1) bs

/-- R401: the key `(PRIO, index)` of node `a` is below that of node `b`. -/
def keyBelow (ns : Nodes) (a b : Nat) : Bool :=
  decide ((nodeAt ns a).prio.toNat < (nodeAt ns b).prio.toNat) ||
    (decide ((nodeAt ns a).prio.toNat = (nodeAt ns b).prio.toNat) && decide (a < b))

/-- R401: `minkey`, starting from the element `m`. -/
def minKey (ns : Nodes) : Nat → List Nat → Nat
  | m, [] => m
  | m, a :: q => minKey ns (if keyBelow ns a m then a else m) q

/-- The element of least key and the queue without it; none of an empty queue (R402). -/
def takeMin (ns : Nodes) : List Nat → Option (Nat × List Nat)
  | [] => none
  | a :: q => some (minKey ns a q, (a :: q).erase (minKey ns a q))

/-- The node a merge writes (R402, R403): the first extracted is LEFT, the second RIGHT, PRIO their sum. -/
def mergedNode (ns : Nodes) (a b : Nat) : Node :=
  { prio := (nodeAt ns a).prio + (nodeAt ns b).prio
    leaf := false
    value := 0#8
    left := BitVec.ofNat 9 a
    right := BitVec.ofNat 9 b }

/-- R402's loop over the queue: it runs while the queue holds two elements (the fuel is its length, and every
merge makes it one shorter). Answers the NODE window and the queue left. -/
def mergeLoop : Nat → Nodes → List Nat → Nat → Nodes × List Nat
  | 0, ns, q, _ => (ns, q)
  | f + 1, ns, q, next =>
    match takeMin ns q with
    | none => (ns, q)
    | some (a, q1) =>
      match takeMin ns q1 with
      | none => (ns, q)
      | some (b, q2) => mergeLoop f (setNode ns next (mergedNode ns a b)) (next :: q2) (next + 1)

/-- The NODE window and ROOT that R402 builds from a FREQ window. -/
def buildTree (f : Vector Word 256) : Nodes × Nat :=
  let syms := symsOf f
  let r := mergeLoop syms.length (placeLeaves f zeroNodes 0 syms) (List.range syms.length) syms.length
  (r.1, r.2.headD 0)

/-- R402 from `STATUS.TREE_VALID <- 0` to `STATUS.TREE_VALID <- 1`. -/
def buildBody (s : State) : State :=
  s.setTree (buildTree s.freq).1 (buildTree s.freq).2 (symsOf s.freq).length

/-- R402: TREE_BUILD's pseudocode. -/
def treeBuildBody (s : State) : Ending :=
  if (symsOf s.freq).length = 0 then .raised .emptyInput 0 s
  else if Config.wordMax < freqSum s.freq then .raised .limit 0 s
  else .done ((buildBody s).setResultLen 0)

/-- R402: TREE_BUILD. -/
def execTreeBuild (s : State) : Host.Outcome State Fault Refusal := windowless treeBuildBody s

end Sys2Proof.Machine
end

