-- ==== Sys2Proof/Machine/TreeCodec.lean ====
section
/-! DEFINITION. TREE_SERIALIZE and TREE_DESERIALIZE (43_tree_codec.md; the byte form is 30_encoding.md R206). -/

namespace Sys2Proof.Machine

/-! ### TREE_SERIALIZE -/

/-- `pre(i)`: 0 and both subtrees for an internal node, 1 and the 8-bit value for a leaf (R206). -/
def Tree.pre : Tree → Bits
  | .leaf v => true :: bin 8 v.toNat
  | .node l r => false :: (l.pre ++ r.pre)

/-- `ser(tree)`: the leaf count on 2 bytes, then the padded preorder traversal (R206, R600). -/
def ser (l : Nat) (t : Tree) : List Byte := be16 l ++ bytesOf (pad8 t.pre)

/-- R601: TREE_SERIALIZE's pseudocode. -/
def treeSerializeBody (s : State) : Ending :=
  let n := 2 + treeBytes s.leafCount.toNat
  if s.status.treeValid = false then .raised .sequence 0 s
  else if s.dstN < n then .raised .outOfSpace n s
  else
    match s.tree with
    | none => .stuck .treeWindowBroken
    | some t => writeDst (ser s.leafCount.toNat t) n s

/-- R601: TREE_SERIALIZE. -/
def execTreeSerialize (s : State) : Host.Outcome State Fault Refusal := windowed .treeSerialize treeSerializeBody s

/-! ### TREE_DESERIALIZE -/

/-- Where R610's parse stands: the NODE window, the bits before `lim` not yet read (`pos` is how many have been),
the number of nodes created, and the leaf values seen. -/
structure Parse where
  nodes : Nodes
  rest : Bits
  cnt : Nat
  seen : List Byte
deriving DecidableEq, Repr

/-- R610's `parse()` for a tree of `l` leaves: the NODE index of the subtree it read, or nothing where it
raised CORRUPT_TREE; beside it everything assigned up to there. The fuel bounds the recursion by the number
of nodes (log 28): it runs out only where `cnt = 2l - 1` raises anyway. -/
def parseTree (l : Nat) : Nat → Parse → Parse × Option Nat
  | 0, p => (p, none)
  | f + 1, p =>
    if p.cnt = 2 * l - 1 then (p, none)
    else
      let i := p.cnt
      let p := { p with cnt := p.cnt + 1 }
      match p.rest with
      | [] => (p, none)
      | true :: rest =>
        if rest.length < 8 then ({ p with rest := rest }, none)
        else
          let v := byteOf (rest.take 8)
          let p := { p with rest := rest.drop 8 }
          if v ∈ p.seen then (p, none)
          else
            ({ p with
               seen := v :: p.seen
               nodes := setNode p.nodes i { prio := 0#32, leaf := true, value := v, left := 0#9, right := 0#9 } },
             some i)
      | false :: rest =>
        match parseTree l f { p with rest := rest, nodes := setNode p.nodes i Node.zero } with
        | (p1, none) => (p1, none)
        | (p1, some a) =>
          match parseTree l f p1 with
          | (p2, none) => (p2, none)
          | (p2, some b) =>
            ({ p2 with
               nodes :=
                 setNode p2.nodes i
                   { nodeAt p2.nodes i with left := BitVec.ofNat 9 a, right := BitVec.ofNat 9 b } },
             some i)

/-- R612 from the padding check on: `bs` are the `T` traversal bytes of a tree of `l` leaves. Whatever is
raised, TREE_VALID and CODES_VALID are 0 and NODE holds the nodes parsed so far. -/
def parseBody (l : Nat) (bs : List Byte) (s : State) : Ending :=
  let lim := 10 * l - 1
  if true ∈ (bitsOf bs).drop lim then .raised .corruptTree 0 (s.setNodes zeroNodes)
  else
    match parseTree l (2 * l) { nodes := zeroNodes, rest := (bitsOf bs).take lim, cnt := 0, seen := [] } with
    | (p, none) => .raised .corruptTree 0 (s.setNodes p.nodes)
    | (p, some r) =>
      if p.rest ≠ [] then .raised .corruptTree 0 (s.setNodes p.nodes)
      else .done (s.setTree p.nodes r l)

/-- R612 up to `STATUS.TREE_VALID <- 1`, for the window of `n` bytes at `a` (HUF_DECOMPRESS reads the same from a
sub-window, R810). -/
def deserializeBody (a n : Nat) (s : State) : Ending :=
  if n < 2 then .raised .corruptTree 0 s
  else
    match memRead s.plat s.mem a 2 with
    | none => .raised .busError 0 s
    | some h =>
      let l := beNat h
      if l = 0 ∨ Config.maxLeaves < l then .raised .corruptTree 0 s
      else if n < 2 + treeBytes l then .raised .corruptTree 0 s
      else
        match memRead s.plat s.mem (a + 2) (treeBytes l) with
        | none => .raised .busError 0 (s.setNodes zeroNodes)
        | some bs => parseBody l bs s

/-- R612: TREE_DESERIALIZE's pseudocode; RESULT_LEN is the number of bytes consumed. -/
def treeDeserializeBody (s : State) : Ending :=
  (deserializeBody s.srcA s.srcN s).andThen fun s1 =>
    .done (s1.setResultLen (2 + treeBytes s1.leafCount.toNat))

/-- R612: TREE_DESERIALIZE. -/
def execTreeDeserialize (s : State) : Host.Outcome State Fault Refusal :=
  windowed .treeDeserialize treeDeserializeBody s

end Sys2Proof.Machine
end

