-- ==== Sys2Proof/Machine/Huffman.lean ====
section
/-! DEFINITION. HUF_COMPRESS and HUF_DECOMPRESS (45_huffman_codec.md; the container is 30_encoding.md R209). -/

namespace Sys2Proof.Machine

/-- `n` of R801: the sum over all byte values of FREQ[s] * CODE_LEN[s]. -/
def weightedLen (f : Vector Word 256) (len : Vector Byte 256) : Nat :=
  (allBytes.map fun b => (atByte f b).toNat * (atByte len b).toNat).sum

/-- `C` of R801: the container length for `l` leaves and `n` payload bits. -/
def hufLen (l n : Nat) : Nat := 6 + treeBytes l + packedLen n

/-- R802 from `ORIG_LEN <- N` on, over the tables of stages 1 to 3: the no-gain policy (R803), the space check, then
the container: the length, `ser(tree)`, and the stream of pass 2 of BIT_PACK. -/
def hufWrite (s : State) : Ending :=
  let s1 := s.setOrigLen s.srcN
  let n := weightedLen s1.freq s1.codeLen
  let c := hufLen s1.leafCount.toNat n
  if s1.latch.nogainEn && decide (s1.srcN ≤ c) then .raised .noGain c s1
  else if s1.dstN < c then .raised .outOfSpace c s1
  else
    match s1.tree with
    | none => .stuck .treeWindowBroken
    | some t =>
      writeDst
        (be32 s1.srcN ++ ser s1.leafCount.toNat t ++
          packChunks n ((s1.mem.peek s1.srcA s1.srcN).map (codeOf s1.codeLen s1.codeBits)))
        c s1

/-- R802: HUF_COMPRESS's pseudocode: FREQ_COUNT's, TREE_BUILD's and CODE_GEN's bodies, then the container. -/
def hufCompressBody (s : State) : Ending :=
  if s.srcN = 0 then .raised .emptyInput 0 s
  else
    (freqBody s).andThen fun s1 =>
      (codesBody (buildBody s1)).andThen fun s2 => hufWrite s2

/-- R802: HUF_COMPRESS. -/
def execHufCompress (s : State) : Host.Outcome State Fault Refusal := windowed .hufCompress hufCompressBody s

/-- R812 after the tree has been read: the payload window, the space check, and BIT_UNPACK's body. -/
def hufPayload (n : Nat) (s : State) : Ending :=
  let used := 6 + treeBytes s.leafCount.toNat
  let m := s.srcN - used
  if m = 0 then .raised .format 0 s
  else if s.dstN < n then .raised .outOfSpace n s
  else unpackBody (s.srcA + used) m n s

/-- R812: HUF_DECOMPRESS's pseudocode. -/
def hufDecompressBody (s : State) : Ending :=
  if s.srcN < 4 then .raised .format 0 s
  else
    match memRead s.plat s.mem s.srcA 4 with
    | none => .raised .busError 0 s
    | some h =>
      let n := beNat h
      if n = 0 then .raised .format 0 s
      else
        (deserializeBody (s.srcA + 4) (s.srcN - 4) (s.setOrigLen n)).andThen fun s1 => hufPayload n s1

/-- R812: HUF_DECOMPRESS. -/
def execHufDecompress (s : State) : Host.Outcome State Fault Refusal := windowed .hufDecompress hufDecompressBody s

end Sys2Proof.Machine
end

