-- ==== Sys2Proof/Machine/Lzw.lean ====
section
/-! DEFINITION. LZW_COMPRESS and LZW_DECOMPRESS (46_lzw.md; the container is 30_encoding.md R210). -/

namespace Sys2Proof.Machine

/-! ### The dictionary (R86, R900; log 18) -/

/-- A dictionary after `dict_seed()`: the codes 0 to 255 name the 1-byte patterns, and `added` holds the patterns
of the codes from 256 on, in order. -/
structure Dict where
  added : List Pattern
deriving DecidableEq, Repr

/-- `dict_seed()` (R900). -/
def Dict.seed : Dict := { added := [] }

/-- `size` (R900), the 256 seeds included. -/
def Dict.size (d : Dict) : Nat := 256 + d.added.length

/-- `dict[k]` for `k < size` (R900). -/
def Dict.entry (d : Dict) (k : Nat) : Option Pattern :=
  if k < 256 then some [BitVec.ofNat 8 k] else d.added[k - 256]?

/-- `dict_add(p)` (R900): none where it raises LIMIT; the new code is the size before. -/
def Dict.add (cap : Nat) (d : Dict) (p : Pattern) : Option Dict :=
  if d.size = cap then none else some { added := d.added ++ [p] }

/-- The code, counted from `k`, of a pattern in a list of added patterns. -/
def findFrom (p : Pattern) : Nat → List Pattern → Option Nat
  | _, [] => none
  | k, q :: qs => if p = q then some k else findFrom p (k + 1) qs

/-- The `j` with `dict[j] = p`, if there is one (R901). -/
def Dict.find (d : Dict) (p : Pattern) : Option Nat :=
  match p with
  | [b] => some b.toNat
  | _ => findFrom p 256 d.added

/-! ### The encoder -/

/-- The code emitted for the current pattern `w`; `w` is in the dictionary whenever it is emitted (R901, log 27). -/
def Dict.codeFor (d : Dict) (w : Pattern) : Nat := (d.find w).getD 0

/-- R901's loop over the input bytes, from the dictionary `d` and the current pattern `w`: the codes emitted, the
final flush included, and the dictionary at the end; none where `dict_add` raises LIMIT. -/
def encodeLoop (cap : Nat) : Dict → Pattern → List Byte → Option (List Nat × Dict)
  | d, w, [] => some ([d.codeFor w], d)
  | d, w, c :: cs =>
    match d.find (w ++ [c]) with
    | some _ => encodeLoop cap d (w ++ [c]) cs
    | none =>
      match d.add cap (w ++ [c]) with
      | none => none
      | some d1 =>
        match encodeLoop cap d1 [c] cs with
        | none => none
        | some (ks, d2) => some (d.codeFor w :: ks, d2)

/-- R901: one encoder pass over the bytes. -/
def lzwEncode (cap : Nat) (bs : List Byte) : Option (List Nat × Dict) := encodeLoop cap Dict.seed [] bs

/-- The largest of the codes, 0 of none (R902's `mx`). -/
def maxOf (ks : List Nat) : Nat := ks.foldl max 0

/-- R903: the code width for a largest code. -/
def widthFor (mx : Nat) : Nat := max 1 (bitlen mx)

/-- `C` of R210 and R902: the container length for `k` codes of width `w`. -/
def lzwLen (k w : Nat) : Nat := 1 + packedLen (k * w)

/-- The bytes of the LZW container (R210, R902): the header byte, then the stream of pass 2. -/
def lzwContainer (w : Nat) (ks : List Nat) : List Byte :=
  BitVec.ofNat 8 w :: packChunks (ks.length * w) (ks.map (bin w))

/-- R902 after pass 1 over the whole SRC window: the result registers, the no-gain policy (R905), the space
check, then the container. -/
def lzwWrite (ks : List Nat) (d : Dict) (s : State) : Ending :=
  let mx := maxOf ks
  let w := widthFor mx
  let c := lzwLen ks.length w
  let s1 := s.setLzw w mx ks.length d.size
  if s1.latch.nogainEn && decide (s1.srcN ≤ c) then .raised .noGain c s1
  else if s1.dstN < c then .raised .outOfSpace c s1
  else writeDst (lzwContainer w ks) c s1

/-- R902: LZW_COMPRESS's pseudocode. A LIMIT among the bytes read comes before a later byte's refused read. -/
def lzwCompressBody (s : State) : Ending :=
  if s.srcN = 0 then .raised .emptyInput 0 s
  else
    match lzwEncode s.plat.lzwDictMax (readable s.plat s.mem s.srcA s.srcN) with
    | none => .raised .limit 0 s
    | some (ks, d) =>
      if !allOk s.plat .read s.srcA s.srcN then .raised .busError 0 s
      else lzwWrite ks d s

/-- R902: LZW_COMPRESS. -/
def execLzwCompress (s : State) : Host.Outcome State Fault Refusal := windowed .lzwCompress lzwCompressBody s

/-! ### The decoder -/

/-- The pattern a code stands for (R910, R911): its entry, or the previous pattern and its first byte for the
code being defined; none where R910 raises UNKNOWN_CODE. -/
def patternFor (d : Dict) (prev : Option Pattern) (k : Nat) : Option Pattern :=
  match d.entry k with
  | some e => some e
  | none =>
    if k = d.size then
      match prev with
      | some p => some (p ++ p.take 1)
      | none => none
    else none

/-- `lzw_step(k)` (R910): the pattern and the dictionary after it, or the error it raises. -/
def lzwStep (cap : Nat) (d : Dict) (prev : Option Pattern) (k : Nat) : Except ErrCode (Pattern × Dict) :=
  match patternFor d prev k with
  | none => .error .unknownCode
  | some e =>
    match prev with
    | none => .ok (e, d)
    | some p =>
      match d.add cap (p ++ e.take 1) with
      | none => .error .limit
      | some d1 => .ok (e, d1)

/-- Where R912's loop stands: the dictionary, the previous pattern, the bytes written, and the values of
CODE_COUNT, MAX_CODE and DICT_SIZE. -/
structure LzwRun where
  dict : Dict
  prev : Option Pattern
  out : List Byte
  count : Nat
  mx : Nat
  size : Nat
deriving DecidableEq, Repr

/-- How R912's loop ends: after the last code, or by an error, late once a byte has been written (R163). -/
inductive LzwEnd where
  | complete (r : LzwRun)
  | failed (e : ErrCode) (late : Bool) (r : LzwRun)
deriving DecidableEq, Repr

/-- One round of R912's loop for a code `k` that has been read: the registers, `lzw_step`, the space check, the
writes. -/
def lzwRound (p : Platform) (dstA dstN : Nat) (r : LzwRun) (k : Nat) : LzwEnd :=
  let r1 := { r with count := r.count + 1, mx := max r.mx k }
  match lzwStep p.lzwDictMax r.dict r.prev k with
  | .error e => .failed e (!r.out.isEmpty) r1
  | .ok (e, d) =>
    let r2 := { r1 with dict := d, prev := some e, size := d.size }
    if dstN < r.out.length + e.length then .failed .outOfSpace (!r.out.isEmpty) r2
    else if !allOk p .write (dstA + r.out.length) e.length then .failed .busError true r2
    else .complete { r2 with out := r.out ++ e }

/-- The reads for a code that occupies bits `[q, q + w)` of the stream at `a`: the bytes that hold them
(R912, log 10). -/
def codeReadable (p : Platform) (a q w : Nat) : Bool :=
  allOk p .read (a + q / 8) ((q + w - 1) / 8 - q / 8 + 1)

/-- R912's loop: the codes still to read, the position `q` of the next one in the stream at `a`, the
payload bits left. -/
def decodeLoop (p : Platform) (a w dstA dstN : Nat) : Nat → Nat → Bits → LzwRun → LzwEnd
  | 0, _, _, r => .complete r
  | k + 1, q, bits, r =>
    if !codeReadable p a q w then .failed .busError (!r.out.isEmpty) r
    else
      match lzwRound p dstA dstN r (uint (bits.take w)) with
      | .failed e late r1 => .failed e late r1
      | .complete r1 => decodeLoop p a w dstA dstN k (q + w) (bits.drop w) r1

/-- The loop's start (R912). -/
def LzwRun.start : LzwRun := { dict := Dict.seed, prev := none, out := [], count := 0, mx := 0, size := 256 }

/-- R912 from `CODE_WIDTH <- W` on: `w` the code width, `z` the leading zeros of the first stream byte, `k` the
number of codes. -/
def lzwPayload (w z k : Nat) (s : State) : Ending :=
  let payload := (bitsOf (s.mem.peek (s.srcA + 1) (s.srcN - 1))).drop (z + 1)
  match decodeLoop s.plat (s.srcA + 1) w s.dstA s.dstN k (z + 1) payload LzwRun.start with
  | .failed e late r => raiseAt late e (s.setLzw w r.mx r.count r.size)
  | .complete r => writeDst r.out r.out.length (s.setLzw w r.mx r.count r.size)

/-- R912: LZW_DECOMPRESS's pseudocode. -/
def lzwDecompressBody (s : State) : Ending :=
  if s.srcN < 2 then .raised .format 0 s
  else
    match memRead s.plat s.mem s.srcA 1 with
    | none => .raised .busError 0 s
    | some h =>
      let w := beNat h % 32
      if beNat h / 32 ≠ 0 then .raised .format 0 s
      else if w = 0 then .raised .format 0 s
      else
        match memRead s.plat s.mem (s.srcA + 1) 1 with
        | none => .raised .busError 0 s
        | some b0 =>
          if beNat b0 = 0 then .raised .format 0 s
          else
            let z := 8 - bitlen (beNat b0)
            let b := 8 * (s.srcN - 1) - z - 1
            if b = 0 ∨ b % w ≠ 0 then .raised .format 0 s
            else lzwPayload w z (b / w) s

/-- R912: LZW_DECOMPRESS. -/
def execLzwDecompress (s : State) : Host.Outcome State Fault Refusal := windowed .lzwDecompress lzwDecompressBody s

end Sys2Proof.Machine
end

