-- ==== Sys2Proof/Machine/Dispatch.lean ====
section
/-! DEFINITION. Which meaning each command has (30_encoding.md R202, R304). -/

namespace Sys2Proof.Machine

def exec (i : Instr) (s : State) : Host.Outcome State Fault Refusal :=
  match i with
  | .nop => Sys2Proof.Machine.execNop s
  | .clear => Sys2Proof.Machine.execClear s
  | .freqCount => Sys2Proof.Machine.execFreqCount s
  | .treeBuild => Sys2Proof.Machine.execTreeBuild s
  | .codeGen => Sys2Proof.Machine.execCodeGen s
  | .treeSerialize => Sys2Proof.Machine.execTreeSerialize s
  | .treeDeserialize => Sys2Proof.Machine.execTreeDeserialize s
  | .bitPack => Sys2Proof.Machine.execBitPack s
  | .bitUnpack => Sys2Proof.Machine.execBitUnpack s
  | .hufCompress => Sys2Proof.Machine.execHufCompress s
  | .hufDecompress => Sys2Proof.Machine.execHufDecompress s
  | .lzwCompress => Sys2Proof.Machine.execLzwCompress s
  | .lzwDecompress => Sys2Proof.Machine.execLzwDecompress s

end Sys2Proof.Machine
end

