-- ==== Sys2Proof/Machine/Mmio.lean ====
section
/-! DEFINITION. The register block as the host sees it: the register map (10_state.md R53), register reads and
writes (R54 to R80, R88, R89, R90). -/

namespace Sys2Proof.Machine

/-! ### The register map (R53) -/

/-- The offset of a register or window word in the block (R53, R75, R76, R77, R80). -/
def offsetOf : Reg → Nat
  | .id => 0x0000
  | .ctrl => 0x0004
  | .status => 0x0008
  | .cmd => 0x000C
  | .srcAddr => 0x0010
  | .srcLen => 0x0014
  | .dstAddr => 0x0018
  | .dstCap => 0x001C
  | .resultLen => 0x0020
  | .origLen => 0x0024
  | .leafCount => 0x0028
  | .nodeCount => 0x002C
  | .root => 0x0030
  | .codeWidth => 0x0034
  | .maxCode => 0x0038
  | .dictSize => 0x003C
  | .codeCount => 0x0040
  | .freq s => 0x0400 + 4 * s.toNat
  | .codeLen s => 0x0800 + 4 * s.toNat
  | .nodePrio i => 0x1000 + 8 * i.val
  | .nodeLink i => 0x1004 + 8 * i.val
  | .codeBits s k => 0x2000 + 32 * s.toNat + 4 * k.val

/-- The registers at offsets 0x0000 to 0x0040, in order (R53). -/
def firstRegs : List Reg :=
  [ .id, .ctrl, .status, .cmd, .srcAddr, .srcLen, .dstAddr, .dstCap, .resultLen, .origLen, .leafCount,
    .nodeCount, .root, .codeWidth, .maxCode, .dictSize, .codeCount ]

/-- The register at an aligned offset of the block; none at a reserved offset (R53). -/
def regAt (o : Nat) : Option Reg :=
  if o < 0x0400 then firstRegs[o / 4]?
  else if o < 0x0800 then some (.freq (BitVec.ofNat 8 ((o - 0x0400) / 4)))
  else if o < 0x0C00 then some (.codeLen (BitVec.ofNat 8 ((o - 0x0800) / 4)))
  else if o < 0x1000 then none
  else if o < 0x1FF8 then
    if o % 8 = 0 then some (.nodePrio (Fin.ofNat 511 ((o - 0x1000) / 8)))
    else some (.nodeLink (Fin.ofNat 511 ((o - 0x1000) / 8)))
  else if o < 0x2000 then none
  else if o < 0x4000 then
    some (.codeBits (BitVec.ofNat 8 ((o - 0x2000) / 32)) (Fin.ofNat 8 ((o - 0x2000) / 4 % 8)))
  else none

/-! ### Reads -/

/-- NODE_LINK[i] (R80). -/
def linkWord (n : Node) : Word :=
  BitVec.setWidth 32 n.left ||| (BitVec.setWidth 32 n.right <<< 9) ||| (BitVec.setWidth 32 n.value <<< 18) |||
    bitAt 31 n.leaf

/-- The value a register holds (R53 to R80). -/
def regValue (s : State) : Reg → Word
  | .id => Config.idValue
  | .ctrl => s.ctrl.word
  | .status => s.status.word
  | .cmd => s.cmd
  | .srcAddr => s.srcAddr
  | .srcLen => s.srcLen
  | .dstAddr => s.dstAddr
  | .dstCap => s.dstCap
  | .resultLen => s.resultLen
  | .origLen => s.origLen
  | .leafCount => BitVec.setWidth 32 s.leafCount
  | .nodeCount => BitVec.setWidth 32 s.nodeCount
  | .root => BitVec.setWidth 32 s.root
  | .codeWidth => BitVec.setWidth 32 s.codeWidth
  | .maxCode => s.maxCode
  | .dictSize => s.dictSize
  | .codeCount => s.codeCount
  | .freq b => atByte s.freq b
  | .codeLen b => BitVec.setWidth 32 (atByte s.codeLen b)
  | .nodePrio i => (nodeAt s.nodes i.val).prio
  | .nodeLink i => linkWord (nodeAt s.nodes i.val)
  | .codeBits b k => codeWord s.codeBits b k.val

/-- The bits of a register that a read while BUSY leaves open (R89), within its fields: reserved fields read 0
(93_implementation_defined.md I16, log 7). -/
def openMask : Reg → Word
  | .id | .ctrl | .cmd | .srcAddr | .srcLen | .dstAddr | .dstCap => 0#32
  | .status => 0x00000F30#32
  | .resultLen | .origLen | .maxCode | .dictSize | .codeCount | .freq _ | .nodePrio _ | .codeBits _ _ => 0xFFFFFFFF#32
  | .leafCount | .root => 0x000001FF#32
  | .nodeCount => 0x000003FF#32
  | .codeWidth => 0x0000001F#32
  | .codeLen _ => 0x000000FF#32
  | .nodeLink _ => 0x83FFFFFF#32

/-- What a host read returns (R89): the register's value, its open bits free while a command runs. -/
def readValue (s : State) (r : Reg) : Word :=
  if s.status.busy then (regValue s r &&& ~~~(openMask r)) ||| (Config.freeValue s.draw 0 32 &&& openMask r)
  else regValue s r

/-- A host read of a register: the value returned, and the next free value for the next open read. Registers
have no read side effects. -/
def State.hostRead (r : Option Reg) (s : State) : State :=
  match r with
  | none => { s with rdata := 0#32 }
  | some r => { s with rdata := readValue s r, draw := if s.status.busy then s.draw + 1 else s.draw }

/-! ### Writes -/

/-- A host write of `v` to a register (R53 to R80, R88): CTRL and the W1C bits of STATUS at any time, CMD as R300 and
R301 say, the argument registers, ORIG_LEN and FREQ while IDLE, nothing to a read-only one. -/
def State.writeReg (r : Reg) (v : Word) (s : State) : State :=
  match r with
  | .ctrl => { s with ctrl := Ctrl.ofWord v }
  | .status => s.setStatus (s.status.w1c v)
  | .cmd => s.writeCmd v
  | .srcAddr => if s.status.busy then s else { s with srcAddr := v }
  | .srcLen => if s.status.busy then s else { s with srcLen := v }
  | .dstAddr => if s.status.busy then s else { s with dstAddr := v }
  | .dstCap => if s.status.busy then s else { s with dstCap := v }
  | .origLen => if s.status.busy then s else { s with origLen := v }
  | .freq b => if s.status.busy then s else { s with freq := setByte s.freq b v }
  | .id | .resultLen | .leafCount | .nodeCount | .root | .codeWidth | .maxCode | .dictSize | .codeCount
  | .codeLen _ | .nodePrio _ | .nodeLink _ | .codeBits _ _ => s

/-- A host write at a decoded register, or at a reserved offset, where it is ignored (R53, R90). -/
def State.hostWrite (r : Option Reg) (v : Word) (s : State) : State :=
  match r with
  | none => s
  | some r => s.writeReg r v

/-- Where a bus access of the host goes (R53, R90, R151; log 14): a register or a reserved offset of the
block; refused when it is not an aligned 32-bit word, or not in the block. -/
def route (p : Platform) (a width : Nat) : Except Refusal (Option Reg) :=
  if a < p.mmioBase ∨ p.mmioBase + Config.blockSize ≤ a then .error (.outsideBlock a)
  else if width ≠ 32 ∨ (a - p.mmioBase) % 4 ≠ 0 then .error (.registerAccess a width)
  else .ok (regAt (a - p.mmioBase))

end Sys2Proof.Machine
end

