-- ==== Sys2Proof/Machine/HostAgent.lean ====
section
/-! DEFINITION. The host's accesses as steps (20_memory.md R164; 60_exceptions.md R1023; 70_reset_and_hazards.md R1112,
R1113), and host scripts (30_encoding.md R213). -/

namespace Sys2Proof.Machine

/-- Does the running command own a window with this address, for `sel` one of `inDst`, `inWindows`? -/
def State.runningHas (sel : Instr → State → Nat → Bool) (s : State) (a : Nat) : Bool :=
  match s.status.busy, s.command with
  | true, some i => sel i s a
  | _, _ => false

/-- A host store of one byte (R1104, R1113): the byte changes, and a running command whose window holds it is
disturbed. -/
def State.hostStore (a : Nat) (b : Byte) (s : State) : State :=
  { s with mem := s.mem.write a b, disturbed := s.disturbed || s.runningHas inWindows a }

/-- A host load of one byte (R164, R1112): any value in the DST window of a running command. -/
def State.hostLoad (a : Nat) (s : State) : State :=
  if s.runningHas inDst a then
    { s with rdata := BitVec.setWidth 32 (Config.freeValue s.draw 0 8 : Byte), draw := s.draw + 1 }
  else { s with rdata := BitVec.setWidth 32 (s.mem.read a) }

/-- One poll of R213's `wait`: a read of STATUS; while BUSY reads 1 the engine has the next turn and the poll comes
again (log 20). -/
def State.poll (s : State) : State :=
  if s.status.busy then
    { s.hostRead (some .status) with turns := .engine :: .host .waitIdle :: s.turns }
  else s.hostRead (some .status)

/-- A script states that the read just done returned `v` (R213, log 22). -/
def State.claim (v : Word) (s : State) : State := { s with claimsMet := s.claimsMet && decide (s.rdata = v) }

/-- One access of the host. `P_MEM_OK` is asked for the engine's accesses only (R13): every address below 2^32 is an
ordinary byte to the host, a refused one too (DESIGN CHOICE, log 31). -/
def hostStep (op : HostOp) (s : State) : Host.Outcome State Fault Refusal :=
  match op with
  | .busWrite a w v =>
    match route s.plat a w with
    | .error r => .refused r
    | .ok r => .next (s.hostWrite r v)
  | .busRead a w =>
    match route s.plat a w with
    | .error r => .refused r
    | .ok r => .next (s.hostRead r)
  | .busReadIs a w v =>
    match route s.plat a w with
    | .error r => .refused r
    | .ok r => .next ((s.hostRead r).claim v)
  | .memStore a b => if a < Config.addrSpace then .next (s.hostStore a b) else .fault (.absentAddress a)
  | .memLoad a => if a < Config.addrSpace then .next (s.hostLoad a) else .fault (.absentAddress a)
  | .waitIdle => .next s.poll

/-! ### Host scripts (R213) -/

/-- The host's write of `v` to a register of the block. -/
def writeTurn (p : Platform) (r : Reg) (v : Word) : Turn := .host (.busWrite (p.mmioBase + offsetOf r) 32 v)

/-- The expansion of a statement of a host script into host accesses (R213). A `mem` line is none: it is about the
start state. -/
def Stmt.turns (p : Platform) : Stmt → List Turn
  | .w32 r v => [writeTurn p r v]
  | .r32 r => [.host (.busRead (p.mmioBase + offsetOf r) 32)]
  | .r32Is r v => [.host (.busReadIs (p.mmioBase + offsetOf r) 32 v)]
  | .mem _ _ => []
  | .cmd m => [writeTurn p .cmd (encode m)]
  | .wait => [.host .waitIdle]
  | .run m => [writeTurn p .cmd (encode m), .host .waitIdle]
  | .src a n => [writeTurn p .srcAddr a, writeTurn p .srcLen n]
  | .dst a n => [writeTurn p .dstAddr a, writeTurn p .dstCap n]
  | .ack => [writeTurn p .status 0x0000000E#32]

/-- The turns of a script: its accesses in order, with no turn of the engine between two of them but those that `wait` asks
for (log 20). R302 lets the engine's turn come after any number of host accesses, and R213 does not say where it falls
in a script: DESIGN CHOICE, log 32. -/
def scriptTurns (p : Platform) : List Stmt → List Turn
  | [] => []
  | st :: sts => Stmt.turns p st ++ scriptTurns p sts

/-- The memory that a script's `mem` directives ask of its start state, over the memory `m`: wherever they stand in the
script, in the order of their lines (R213). -/
def scriptMem : List Stmt → Memory → Memory
  | [], m => m
  | .mem a bs :: sts, m => scriptMem sts (m.poke a bs)
  | .w32 _ _ :: sts, m | .r32 _ :: sts, m | .r32Is _ _ :: sts, m | .cmd _ :: sts, m | .wait :: sts, m
  | .run _ :: sts, m | .src _ _ :: sts, m | .dst _ _ :: sts, m | .ack :: sts, m => scriptMem sts m

/-- The start state of a script's run from `s` (R213): the `mem` directives hold, the script's accesses are the turns to
come (where the engine's turns fall among them: log 32), and none of its claims has failed. -/
def State.withScript (sts : List Stmt) (s : State) : State :=
  { s with mem := scriptMem sts s.mem, turns := scriptTurns s.plat sts, claimsMet := true }

/-- The MMIO writes of a statement, as (offset, value) pairs (R213). -/
def Stmt.mmioWrites : Stmt → List (Nat × Word)
  | .w32 r v => [(offsetOf r, v)]
  | .r32 _ => []
  | .r32Is _ _ => []
  | .mem _ _ => []
  | .cmd m => [(offsetOf .cmd, encode m)]
  | .wait => []
  | .run m => [(offsetOf .cmd, encode m)]
  | .src a n => [(offsetOf .srcAddr, a), (offsetOf .srcLen, n)]
  | .dst a n => [(offsetOf .dstAddr, a), (offsetOf .dstCap, n)]
  | .ack => [(offsetOf .status, 0x0000000E#32)]

/-- The encoding of a program: the list of its MMIO writes (R213). -/
def encodeScript : List Stmt → List (Nat × Word)
  | [] => []
  | st :: sts => Stmt.mmioWrites st ++ encodeScript sts

end Sys2Proof.Machine
end

