-- ==== Sys2Proof/Machine/Step.lean ====
section
/-! DEFINITION. One step of the machine: the turn of the engine, the host or the reset input (40_control.md R302,
60_exceptions.md R1023; log 2), and how a command word is placed for the next step (log 1). -/

namespace Sys2Proof.Machine

/-- The engine's turn (R302): it runs the latched command to its end, or fails an illegal word (R203); idle, it
waits. -/
def engineTurn (s : State) : Host.Outcome State Fault Refusal :=
  if s.status.busy then
    match s.command with
    | some i => exec i s
    | none => badCommand s
  else .next s

/-- One step: the first turn scheduled; when none is left, the engine's. -/
def step (s : State) : Host.Outcome State Fault Refusal :=
  match s.turns with
  | [] => engineTurn s
  | .engine :: ts => engineTurn { s with turns := ts }
  | .host op :: ts => hostStep op { s with turns := ts }
  | .reset :: ts => .next ({ s with turns := ts }).hardReset

/-- `s` with the command word of an opcode-table row's bits placed where the next step reads it: accepted by a CMD
write (R300), with no turn before the engine's (log 1). -/
def State.withFetchWord (s : State) (nbits w : Nat) : State :=
  { s.launch (BitVec.ofNat 32 (w % 2 ^ nbits)) with turns := [] }

end Sys2Proof.Machine
end

