-- ==== Sys2Proof/Safety.lean ====
section
/-! DEFINITION. What counts as a safe run, and the words the statements are written in: how a command ended, what it
left unchanged, the invariant of the machine, and the code of a byte value read from the tree. -/

namespace Sys2Proof.Machine

/-! ### How a command ended (R303) -/

/-- `t` is `s` after a completion without error: DONE, ECODE 0, BUSY 0; ERR and DROPPED as before. -/
def Completed (s t : State) : Prop :=
  t.status.busy = false ∧ t.status.done = true ∧ t.status.ecode = 0#4 ∧ t.status.err = s.status.err ∧
    t.status.dropped = s.status.dropped

/-- `t` is `s` after a completion with the error `e`, reporting the length `n` (0 for none): ERR, the error's
code, BUSY 0, RESULT_LEN saturated; DONE and DROPPED as before. -/
def Failed (e : ErrCode) (n : Nat) (s t : State) : Prop :=
  t.status.busy = false ∧ t.status.err = true ∧ t.status.ecode = e.code ∧ t.status.done = s.status.done ∧
    t.status.dropped = s.status.dropped ∧ t.resultLen = BitVec.ofNat 32 (min n Config.wordMax)

/-! ### What a step leaves unchanged -/

/-- CTRL, CMD, the argument registers, the latches (R71), and the fields that are no state of the engine. -/
def KeepsArgs (s t : State) : Prop :=
  t.ctrl = s.ctrl ∧ t.cmd = s.cmd ∧ t.srcAddr = s.srcAddr ∧ t.srcLen = s.srcLen ∧ t.dstAddr = s.dstAddr ∧
    t.dstCap = s.dstCap ∧ t.latch = s.latch ∧ t.plat = s.plat ∧ t.turns = s.turns ∧ t.rdata = s.rdata ∧
    t.claimsMet = s.claimsMet

/-- The FREQ window. -/
def KeepsFreq (s t : State) : Prop := t.freq = s.freq

/-- The NODE window, ROOT, LEAF_COUNT and NODE_COUNT. -/
def KeepsTree (s t : State) : Prop :=
  t.nodes = s.nodes ∧ t.root = s.root ∧ t.leafCount = s.leafCount ∧ t.nodeCount = s.nodeCount

/-- CODE_LEN and CODE_BITS. -/
def KeepsCodes (s t : State) : Prop := t.codeLen = s.codeLen ∧ t.codeBits = s.codeBits

/-- STATUS.TREE_VALID and STATUS.CODES_VALID. -/
def KeepsFlags (s t : State) : Prop :=
  t.status.treeValid = s.status.treeValid ∧ t.status.codesValid = s.status.codesValid

/-- ORIG_LEN. -/
def KeepsOrig (s t : State) : Prop := t.origLen = s.origLen

/-- The four LZW result registers. -/
def KeepsLzw (s t : State) : Prop :=
  t.codeWidth = s.codeWidth ∧ t.maxCode = s.maxCode ∧ t.dictSize = s.dictSize ∧ t.codeCount = s.codeCount

/-- Every byte of system memory reads as before. -/
def KeepsMem (s t : State) : Prop := ∀ a, t.mem.read a = s.mem.read a

/-- Every byte of system memory outside the `n` bytes at `a0` reads as before. -/
def KeepsMemOutside (a0 n : Nat) (s t : State) : Prop :=
  ∀ a, a < a0 ∨ a0 + n ≤ a → t.mem.read a = s.mem.read a

/-- All of the engine's results: FREQ, tree, code table, validity flags, ORIG_LEN, LZW registers. -/
def KeepsResults (s t : State) : Prop :=
  KeepsFreq s t ∧ KeepsTree s t ∧ KeepsCodes s t ∧ KeepsFlags s t ∧ KeepsOrig s t ∧ KeepsLzw s t

/-- A failure that changed nothing but STATUS and RESULT_LEN (R304). -/
def FailedClean (e : ErrCode) (n : Nat) (s t : State) : Prop :=
  Failed e n s t ∧ KeepsArgs s t ∧ KeepsResults s t ∧ KeepsMem s t

/-! ### The invariant of the machine -/

/-- The lifecycle part: BUSY excludes DONE and ERR, which exclude each other (R56, R300, R303); ECODE is an assigned
code (R1014); while BUSY the latched command and arguments equal the registers (R85, R88); only a running
command is disturbed; the platform's parameters are in R7's ranges. -/
def State.LifecycleInv (s : State) : Prop :=
  (s.status.busy = true → s.status.done = false ∧ s.status.err = false) ∧
    (s.status.done = true → s.status.err = false) ∧
    s.status.ecode.toNat ≤ 13 ∧
    (s.status.busy = true →
      s.latch.cmd = s.cmd ∧ s.latch.srcAddr = s.srcAddr ∧ s.latch.srcLen = s.srcLen ∧
        s.latch.dstAddr = s.dstAddr ∧ s.latch.dstCap = s.dstCap ∧ s.latch.origLen = s.origLen) ∧
    (s.disturbed = true → s.status.busy = true) ∧
    s.plat.wf = true

/-- TREE_VALID = 1 only over a valid tree (R81). -/
def State.TreeInv (s : State) : Prop := s.status.treeValid = true → s.treeOk = true

/-- CODES_VALID = 1 only over the code table of a valid tree (R82). -/
def State.CodesInv (s : State) : Prop :=
  s.status.codesValid = true → s.status.treeValid = true ∧ s.codesOk = true

/-- Everything every step keeps. -/
def State.Inv (s : State) : Prop :=
  s.LifecycleInv ∧ s.TreeInv ∧ s.CodesInv ∧ s.mem.wf = true

/-- Every turn to come is one the spec admits: aligned 32-bit accesses of the block, memory accesses at addresses
that exist (R90, R150). -/
def State.TurnsWf (s : State) : Prop := s.turns.all (Turn.wf s.plat) = true

/-! ### Codes read from the tree (R500, R502), and what a command works on -/

/-- The path to the leaf of a byte value: 0 for LEFT, 1 for RIGHT (R500). -/
def Tree.path : Tree → Byte → Option Bits
  | .leaf v, b => if v = b then some [] else none
  | .node l r, b =>
    match l.path b with
    | some p => some (false :: p)
    | none =>
      match r.path b with
      | some p => some (true :: p)
      | none => none

/-- The code of a byte value (R500); the 1-bit string "0" for the value of a one-leaf tree (R502). -/
def Tree.code : Tree → Byte → Option Bits
  | .leaf v, b => if v = b then some [false] else none
  | .node l r, b => (Tree.node l r).path b

/-- The payload of a byte sequence under a tree's codes (R700). -/
def Tree.payload (t : Tree) (bs : List Byte) : Bits := bs.flatMap fun b => (t.code b).getD []

/-- A tree the engine can hold: 1 to 256 leaves of distinct values (R81). -/
def Tree.legal (t : Tree) : Prop := t.leaves.length ≤ 256 ∧ t.leaves.Nodup

/-- The number of internal nodes of a tree. -/
def Tree.inner : Tree → Nat
  | .leaf _ => 0
  | .node l r => l.inner + r.inner + 1

/-- The queue of R402 just before NODE[i] is created, for a tree of `l` leaves: the indices below `i` that no
internal node below `i` has as a child. -/
def queueBefore (ns : Nodes) (l i : Nat) : List Nat :=
  (List.range i).filter fun j =>
    (List.range i).all fun k =>
      decide (k < l) || (decide ((nodeAt ns k).left.toNat ≠ j) && decide ((nodeAt ns k).right.toNat ≠ j))

/-- The bytes of the latched SRC window. -/
def State.src (s : State) : List Byte := s.mem.peek s.srcA s.srcN

/-- The platform accepts every read of the latched SRC window. -/
def State.SrcReadable (s : State) : Prop := allOk s.plat .read s.srcA s.srcN = true

/-- The platform accepts the first `n` writes of the latched DST window. -/
def State.DstWritable (s : State) (n : Nat) : Prop := allOk s.plat .write s.dstA n = true

/-- The memory of `t` holds the bytes `out` from the latched DST_ADDR of `s` on, and reads as before
elsewhere (R161). -/
def WroteDst (out : List Byte) (s t : State) : Prop :=
  t.mem.peek s.dstA out.length = out ∧ KeepsMemOutside s.dstA out.length s t

/-- The Huffman tree of a byte sequence: TREE_BUILD's tree over its counts (R400, R402). -/
def treeOfBytes (bs : List Byte) : Option Tree :=
  subtree Config.maxNodes (buildTree (countBytes zeroFreq bs)).1 (buildTree (countBytes zeroFreq bs)).2

/-- The Huffman container of a byte sequence under a tree (R209). -/
def hufContainer (t : Tree) (bs : List Byte) : List Byte :=
  be32 bs.length ++ ser t.leaves.length t ++ pack (t.payload bs)

/-- The payload `p` holds the symbols `bs` and then the bits `rest`, which begin with no code (R711); under a one-leaf
tree every bit is a symbol (R713). -/
def Tree.splits : Tree → Bits → List Byte → Bits → Prop
  | .leaf v, p, bs, rest => bs = List.replicate p.length v ∧ rest = []
  | .node l r, p, bs, rest =>
    (∀ b ∈ bs, b ∈ (Tree.node l r).leaves) ∧ p = (Tree.node l r).payload bs ++ rest ∧
      ∀ b c, (Tree.node l r).code b = some c → ¬ c <+: rest

/-- Why the stream `B` is refused as the codes of `n` symbols for a DST window of `cap` bytes, in the order of R712 and
R812: the error, the length it reports, and whether a symbol has been written by then. -/
def StreamRefused (tr : Tree) (n cap : Nat) (B : List Byte) (e : ErrCode) (len : Nat) (late : Bool) : Prop :=
  (e = .format ∧ len = 0 ∧ late = false ∧ B = []) ∨
    (e = .outOfSpace ∧ len = n ∧ late = false ∧ B ≠ [] ∧ cap < n) ∨
    (e = .format ∧ len = 0 ∧ late = false ∧ n ≤ cap ∧ B.head? = some 0#8) ∨
    (e = .lengthMismatch ∧ len = 0 ∧ n ≤ cap ∧
      ∃ p bs rest, unpack B = some p ∧ tr.splits p bs rest ∧ (n ≠ bs.length ∨ rest ≠ []) ∧ late = !bs.isEmpty)

/-- How many bytes at the start of SRC, of `n`, a command that completed in `t` has read: all of it, but the
serialization alone in TREE_DESERIALIZE (R612), and under a one-leaf tree, of which no bit is read (R711, log 9), no
more than the first byte of the stream in BIT_UNPACK and HUF_DECOMPRESS. -/
def bytesRead (i : Instr) (n : Nat) (t : State) : Nat :=
  match i with
  | .freqCount | .bitPack | .hufCompress | .lzwCompress | .lzwDecompress => n
  | .treeDeserialize => t.resultLen.toNat
  | .bitUnpack => if t.leafCount = 1#9 then 1 else n
  | .hufDecompress => if t.leafCount = 1#9 then 4 + (2 + treeBytes 1) + 1 else n
  | .nop | .clear | .treeBuild | .codeGen | .treeSerialize => 0

/-- The state on a platform that refuses no access. -/
def State.unrestricted (s : State) : State := { s with plat := { s.plat with denied := [] } }

/-- Memory after an error: as before if nothing had been written, else every byte of the latched DST window is a free
value and the others are as before (R162, R163; log 6). -/
def MemAfterError (late : Bool) (s t : State) : Prop :=
  KeepsMemOutside s.dstA s.dstN s t ∧ (late = false → KeepsMem s t) ∧
    (late = true → ∀ a, s.dstA ≤ a → a < s.dstA + s.dstN → t.mem.read a = Config.freeValue s.draw a 8)

/-- The dictionary once the patterns `ps` have been coded: beside the seeds, each pattern with the first byte of the
next one (R901, R910, R913). -/
def dictOf (ps : List Pattern) : Dict := { added := List.zipWith (fun p q => p ++ q.take 1) ps ps.tail }

/-- The codes `ks` stand for the patterns `ps` (R910, R911) within a dictionary of `cap` entries (R900): each code is
an entry of the dictionary when it is read, or the one being defined. -/
def DecodesTo (cap : Nat) (ks : List Nat) (ps : List Pattern) : Prop :=
  ps.length = ks.length ∧ (dictOf ps).size ≤ cap ∧
    ∀ (j k : Nat) (p : Pattern), ks[j]? = some k → ps[j]? = some p →
      (dictOf (ps.take j)).entry k = some p ∨
        k = (dictOf (ps.take j)).size ∧ ∃ q, (ps.take j).getLast? = some q ∧ p = q ++ q.take 1

/-- Why R912's loop stops at the code `k`, after the codes `pre` of the patterns `ps`: the error, and the value it leaves
in DICT_SIZE (R910 to R912). -/
def CodeRefused (cap dstN : Nat) (pre : List Nat) (ps : List Pattern) (k : Nat) (e : ErrCode) (size : Nat) : Prop :=
  (e = .unknownCode ∧ size = (dictOf ps).size ∧ ((dictOf ps).size < k ∨ k = (dictOf ps).size ∧ ps = [])) ∨
    (e = .limit ∧ size = (dictOf ps).size ∧ ps ≠ [] ∧ k ≤ (dictOf ps).size ∧ (dictOf ps).size = cap) ∨
    (e = .outOfSpace ∧ ∃ p, DecodesTo cap (pre ++ [k]) (ps ++ [p]) ∧ size = (dictOf (ps ++ [p])).size ∧
      dstN < (ps ++ [p]).flatten.length)

/-- The LZW container of a code sequence at a width (R210). -/
def lzwBytes (w : Nat) (ks : List Nat) : List Byte := BitVec.ofNat 8 w :: pack (ks.flatMap (bin w))

/-! ### Safe runs -/

/-- A step is safe when it answers a next state in which the invariant holds and the turns to come are still
admitted. -/
def SafeStep (s : State) : Prop := ∃ t, step s = .next t ∧ t.Inv ∧ t.TurnsWf

/-- A run of `n` steps is safe when it ends in a next state with the invariant. -/
def SafeRun (n : Nat) (s : State) : Prop := ∃ t, Host.Core.run Sys2Proof.core n s = .next t ∧ t.Inv

end Sys2Proof.Machine
end

