-- ==== Sys2Proof/Certificates/Slice0/Obligations.lean ====
section
/-! DEFINITION. The statements for the provers. Each docstring names the rules it formalises, or the log entry of the
model's choice it rests on. -/

open Sys2Proof Sys2Proof.Machine

/-! ### The command word -/

/-- R200, R202, R204: a word decodes to a command exactly when it is that command's word; no bit is dropped. -/
def Obligations.DecodeInvertsEncode : Prop :=
  ∀ (w : Word) (i : Instr), i.wf = true → (decode w = .ok i ↔ w = encode i)

/-- R202: the 13 words of the opcode map, written out. -/
def Obligations.CommandWordsDecodeAsTabulated : Prop :=
  decode 0x00000000#32 = .ok .nop ∧ decode 0x00000001#32 = .ok .clear ∧
    decode 0x00000010#32 = .ok .freqCount ∧ decode 0x00000011#32 = .ok .treeBuild ∧
    decode 0x00000012#32 = .ok .codeGen ∧ decode 0x00000013#32 = .ok .treeSerialize ∧
    decode 0x00000014#32 = .ok .treeDeserialize ∧ decode 0x00000015#32 = .ok .bitPack ∧
    decode 0x00000016#32 = .ok .bitUnpack ∧ decode 0x00000020#32 = .ok .hufCompress ∧
    decode 0x00000021#32 = .ok .hufDecompress ∧ decode 0x00000030#32 = .ok .lzwCompress ∧
    decode 0x00000031#32 = .ok .lzwDecompress

/-- R203: a word that is no row of the opcode map is accepted, and the engine's next turn ends it with BAD_COMMAND and
no other effect. `ts` are the turns left after the engine's (log 2). -/
def Obligations.IllegalWordFailsAtOnce : Prop :=
  ∀ (s : State) (w : Word) (ts : List Turn), s.status.busy = false → (∀ i, w ≠ encode i) →
    (s.turns = [] ∧ ts = [] ∨ s.turns = .engine :: ts) →
      (s.hostWrite (some .cmd) w).status.busy = true ∧ (s.hostWrite (some .cmd) w).cmd = w ∧
        ∃ t, step (s.hostWrite (some .cmd) w) = .next t ∧
          FailedClean .badCommand 0 { s.hostWrite (some .cmd) w with turns := ts } t

/-! ### Steps and the command lifecycle -/

/-- R302 and log 2: a step takes the first scheduled turn, the engine's when none is left. In the engine's turn a
busy engine runs the command its latched word decodes to, and an idle one waits; in any state the host's turn is
its access and a reset turn is a reset. -/
def Obligations.StepRunsLatchedCommand : Prop :=
  (∀ s : State, s.status.busy = false →
    (s.turns = [] → step s = .next s) ∧
      ∀ ts, s.turns = .engine :: ts → step s = .next { s with turns := ts }) ∧
  (∀ (s : State) (i : Instr), s.status.busy = true → decode s.latch.cmd = .ok i → i.wf = true →
    (s.turns = [] → step s = exec i s) ∧
      ∀ ts, s.turns = .engine :: ts → step s = exec i { s with turns := ts }) ∧
  ∀ (s : State) (ts : List Turn),
    (∀ op, s.turns = .host op :: ts → step s = hostStep op { s with turns := ts }) ∧
      (s.turns = .reset :: ts → step s = .next ({ s with turns := ts }).hardReset)

/-- R300: what an accepted CMD write does, and that it does nothing else (`disturbed` is the model's own, log 8). -/
def Obligations.LaunchLatchesArguments : Prop :=
  ∀ (s : State) (w : Word), s.status.busy = false →
    s.hostWrite (some .cmd) w =
      { s with
        cmd := w
        status := { s.status with done := false, err := false, busy := true }
        latch :=
          { cmd := w, srcAddr := s.srcAddr, srcLen := s.srcLen, dstAddr := s.dstAddr, dstCap := s.dstCap,
            origLen := s.origLen, nogainEn := s.ctrl.nogainEn }
        disturbed := false }

/-- R51: BUSY falls only in the engine's turn or by a reset, and rises only by a host write to CMD, which holds the
written word then. -/
def Obligations.BusyChangesOnlyAsStated : Prop :=
  ∀ s t : State, step s = .next t →
    (s.status.busy = true → t.status.busy = false →
      s.turns = [] ∨ (∃ ts, s.turns = .engine :: ts) ∨ ∃ ts, s.turns = .reset :: ts) ∧
    (s.status.busy = false → t.status.busy = true →
      ∃ ts w, s.turns = .host (.busWrite (s.plat.mmioBase + 0x000C) 32 w) :: ts ∧ t.cmd = w ∧ t.latch.cmd = w)

/-- R303, R1014, R1020: a command launched with DONE = ERR = 0 ends idle with exactly one of the two set, an assigned
error code, which is 0 exactly with DONE unless the command was disturbed (log 8), DROPPED as before, and the
interrupt output at IRQ_EN. -/
def Obligations.CommandEndsIdle : Prop :=
  ∀ (i : Instr) (s t : State), exec i s = .next t → s.status.done = false → s.status.err = false →
    t.status.busy = false ∧ t.status.done = !t.status.err ∧ t.status.ecode.toNat ≤ 13 ∧
      (s.disturbed = false → (t.status.done = true ↔ t.status.ecode = 0#4)) ∧
      t.status.dropped = s.status.dropped ∧ t.irq = s.ctrl.irqEn

/-- R153, R304: a command whose windows break a window check ends with BAD_ARGS and changes nothing but STATUS and
RESULT_LEN. -/
def Obligations.WindowViolationEndsInBadArgs : Prop :=
  ∀ (i : Instr) (s : State), s.disturbed = false →
    (usesSrc i = true ∧ 2 ^ 32 < s.latch.srcAddr.toNat + s.latch.srcLen.toNat ∨
      usesDst i = true ∧ 2 ^ 32 < s.latch.dstAddr.toNat + s.latch.dstCap.toNat ∨
      usesSrc i = true ∧ usesDst i = true ∧ 0 < s.latch.srcLen.toNat ∧ 0 < s.latch.dstCap.toNat ∧
        s.latch.srcAddr.toNat < s.latch.dstAddr.toNat + s.latch.dstCap.toNat ∧
        s.latch.dstAddr.toNat < s.latch.srcAddr.toNat + s.latch.srcLen.toNat) →
      ∃ t, exec i s = .next t ∧ FailedClean .badArgs 0 s t

/-! ### Frames over all commands -/

/-- R71: what each command leaves as it was, whichever way it ends. -/
def Obligations.CommandsKeepWhatTheyDoNotName : Prop :=
  ∀ (i : Instr) (s t : State), exec i s = .next t →
    KeepsArgs s t ∧ t.status.dropped = s.status.dropped ∧
      (i ∉ [Instr.clear, .freqCount, .hufCompress] → KeepsFreq s t) ∧
      (i ∉ [Instr.clear, .treeBuild, .treeDeserialize, .hufCompress, .hufDecompress] →
        KeepsTree s t ∧ t.status.treeValid = s.status.treeValid) ∧
      (i ∉ [Instr.clear, .codeGen, .hufCompress] → KeepsCodes s t) ∧
      (i ∉ [Instr.clear, .codeGen, .treeBuild, .treeDeserialize, .hufCompress, .hufDecompress] →
        t.status.codesValid = s.status.codesValid) ∧
      (i ∉ [Instr.clear, .hufCompress, .hufDecompress] → KeepsOrig s t) ∧
      (i ∉ [Instr.clear, .lzwCompress, .lzwDecompress] → KeepsLzw s t)

/-- R152, R162, R163: a command changes no byte of memory outside its DST window, and none at all when it has no
DST window. `TreeInv` rules out a TREE_VALID over no tree (R81), which no run reaches. -/
def Obligations.CommandsWriteOnlyTheirDst : Prop :=
  ∀ (i : Instr) (s t : State), s.TreeInv → exec i s = .next t →
    (usesDst i = false → KeepsMem s t) ∧ (usesDst i = true → KeepsMemOutside s.dstA s.dstN s t)

/-- R13, R1011: a command that would complete if the platform refused nothing completes just so when the platform accepts
the bytes it reads and writes, and ends with BUS_ERROR when it refuses one of them (which they are under a one-leaf
tree: log 9).
R162: the errors that are found before the first write leave memory as it was: every error but UNKNOWN_CODE,
LENGTH_MISMATCH, BUS_ERROR and, in LZW_DECOMPRESS, LIMIT and OUT_OF_SPACE; BUS_ERROR of another command than
LZW_DECOMPRESS when every write of its DST window is accepted, so that a read was refused; and in LZW_DECOMPRESS
UNKNOWN_CODE or OUT_OF_SPACE on the first code and BUS_ERROR before the first code. That a refused read of BIT_UNPACK
and HUF_DECOMPRESS comes before the first write is the model's reading of R711 with R13 (DEDUCED, log 9), not R162's
word. `TreeInv` and `Platform.wf` rule out a TREE_VALID over no tree (R81) and a dictionary past R7's range, which no
run reaches. -/
def Obligations.EarlyErrorsKeepMemory : Prop :=
  (∀ (i : Instr) (s u : State), s.disturbed = false → s.TreeInv → exec i s.unrestricted = .next u →
    u.status.ecode = 0#4 →
    (allOk s.plat .read s.srcA (bytesRead i s.srcN u) = true ∧ (usesDst i = true → s.DstWritable u.resultLen.toNat) →
      exec i s = .next { u with plat := s.plat }) ∧
    (¬(allOk s.plat .read s.srcA (bytesRead i s.srcN u) = true ∧
        (usesDst i = true → s.DstWritable u.resultLen.toNat)) →
      ∃ t, exec i s = .next t ∧ Failed .busError 0 s t)) ∧
  ∀ (i : Instr) (s t : State) (e : ErrCode), s.disturbed = false → exec i s = .next t → t.status.ecode = e.code →
    (e ∉ [ErrCode.unknownCode, .lengthMismatch, .busError] ∧
        ¬(i = .lzwDecompress ∧ (e = .limit ∨ e = .outOfSpace)) ∨
      e = .busError ∧ i ≠ .lzwDecompress ∧ (usesDst i = true → s.TreeInv ∧ s.DstWritable s.dstN) ∨
      i = .lzwDecompress ∧ s.plat.wf = true ∧
        ((e = .unknownCode ∨ e = .outOfSpace) ∧ t.codeCount = 1#32 ∨ e = .busError ∧ t.codeCount = 0#32)) →
    KeepsMem s t

/-! ### The host's side -/

/-- R53, R54, R88, R301: host writes while BUSY and while IDLE, with their frame; a write to a read-only register is
ignored at any time. CTRL has two fields (R55); the W1C bits are those of R56. -/
def Obligations.HostWritesFollowBusyRule : Prop :=
  ∀ (s : State) (v : Word) (b : Byte) (i : Fin 511) (k : Fin 8) (r : Reg),
    (r ∈ [Reg.srcAddr, .srcLen, .dstAddr, .dstCap, .origLen, .freq b] →
      (s.status.busy = true → s.hostWrite (some r) v = s) ∧
      (s.status.busy = false → regValue (s.hostWrite (some r) v) r = v ∧
        ∀ r', r' ≠ r → regValue (s.hostWrite (some r) v) r' = regValue s r')) ∧
    (r ∈ [Reg.id, .resultLen, .leafCount, .nodeCount, .root, .codeWidth, .maxCode, .dictSize, .codeCount,
        .codeLen b, .codeBits b k, .nodePrio i, .nodeLink i] →
      s.hostWrite (some r) v = s) ∧
    regValue s .id = 0x484C0001#32 ∧
    (s.status.busy = true →
      s.hostWrite (some .cmd) v = { s with status := { s.status with dropped := true } }) ∧
    regValue (s.hostWrite (some .ctrl) v) .ctrl = v &&& 3#32 ∧
    (∀ r', r' ≠ .ctrl → regValue (s.hostWrite (some .ctrl) v) r' = regValue s r') ∧
    s.hostWrite (some .status) v =
      { s with
        status :=
          { s.status with
            done := s.status.done && !v.getLsbD 1
            err := s.status.err && !v.getLsbD 2
            dropped := s.status.dropped && !v.getLsbD 3 } }

/-- R56: at any time a write to STATUS clears DONE, ERR and DROPPED where a 1 is written, and no other bit; no other
register changes. -/
def Obligations.StatusBitsClearOnWriteOne : Prop :=
  ∀ (s : State) (v : Word),
    regValue (s.hostWrite (some .status) v) .status = regValue s .status &&& ~~~(v &&& 0x0000000E#32) ∧
      ∀ r, r ≠ .status → regValue (s.hostWrite (some .status) v) r = regValue s r

/-- R53, R75 to R77, R80: the register map: the offset of every register and window entry as a number; each is aligned, in
the block, and decodes to its register; no other aligned offset does, and the ones that decode to none are the reserved
ranges. -/
def Obligations.RegisterMapIsOneToOne : Prop :=
  ([Reg.id, .ctrl, .status, .cmd, .srcAddr, .srcLen, .dstAddr, .dstCap, .resultLen, .origLen, .leafCount, .nodeCount,
        .root, .codeWidth, .maxCode, .dictSize, .codeCount].map offsetOf =
      [0x0000, 0x0004, 0x0008, 0x000C, 0x0010, 0x0014, 0x0018, 0x001C, 0x0020, 0x0024, 0x0028, 0x002C,
        0x0030, 0x0034, 0x0038, 0x003C, 0x0040]) ∧
    (∀ (b : Byte) (i : Fin 511) (k : Fin 8),
      offsetOf (.freq b) = 0x0400 + 4 * b.toNat ∧ offsetOf (.codeLen b) = 0x0800 + 4 * b.toNat ∧
        offsetOf (.nodePrio i) = 0x1000 + 8 * i.val ∧ offsetOf (.nodeLink i) = 0x1004 + 8 * i.val ∧
        offsetOf (.codeBits b k) = 0x2000 + 32 * b.toNat + 4 * k.val) ∧
    (∀ r : Reg, offsetOf r % 4 = 0 ∧ offsetOf r < 0x4000 ∧ regAt (offsetOf r) = some r) ∧
    (∀ (o : Nat) (r : Reg), o % 4 = 0 → regAt o = some r → offsetOf r = o) ∧
    ∀ o : Nat, o % 4 = 0 → o < 0x4000 →
      (regAt o = none ↔ 0x0044 ≤ o ∧ o < 0x0400 ∨ 0x0C00 ≤ o ∧ o < 0x1000 ∨ 0x1FF8 ≤ o ∧ o < 0x2000)

/-- R90, R213: an aligned 32-bit access of the block reaches the register at its offset; at a reserved offset a read returns
0 and a write is ignored; every other access of the block is refused (log 14: the block's base is a multiple of 4). A
read whose value a script states (R213) is that read; what it records is the model's choice (DESIGN CHOICE, log 22). -/
def Obligations.RegisterAccessWidthRule : Prop :=
  ∀ (s : State) (a w : Nat) (v : Word), s.plat.wf = true → s.plat.mmioBase ≤ a → a < s.plat.mmioBase + 0x4000 →
    (w ≠ 32 ∨ a % 4 ≠ 0 →
      hostStep (.busWrite a w v) s = .refused (.registerAccess a w) ∧
        hostStep (.busRead a w) s = .refused (.registerAccess a w) ∧
        hostStep (.busReadIs a w v) s = .refused (.registerAccess a w)) ∧
    (w = 32 ∧ a % 4 = 0 →
      (∀ r, regAt (a - s.plat.mmioBase) = some r →
        hostStep (.busWrite a w v) s = .next (s.hostWrite (some r) v) ∧
          hostStep (.busRead a w) s = .next (s.hostRead (some r)) ∧
          hostStep (.busReadIs a w v) s = .next
            { s.hostRead (some r) with
              claimsMet := s.claimsMet && decide ((s.hostRead (some r)).rdata = v) }) ∧
      (regAt (a - s.plat.mmioBase) = none →
        hostStep (.busWrite a w v) s = .next s ∧ hostStep (.busRead a w) s = .next { s with rdata := 0#32 } ∧
          hostStep (.busReadIs a w v) s = .next
            { s with rdata := 0#32, claimsMet := s.claimsMet && decide (v = 0#32) }))

/-- R89: what a host read of each register returns: the value while IDLE, and while BUSY for the registers that stay
readable and for BUSY, DONE, ERR and DROPPED of STATUS. Every other field is a free value while BUSY, drawn anew for
each such read (log 5), and the reserved bits of its register read 0 (log 7). -/
def Obligations.HostReadsWhileBusy : Prop :=
  ∀ s : State,
    (s.status.busy = false → ∀ r, (s.hostRead (some r)).rdata = regValue s r ∧ (s.hostRead (some r)).draw = s.draw) ∧
    (s.status.busy = true → ∀ (b : Byte) (i : Fin 511) (k : Fin 8) (r : Reg),
      (s.hostRead (some r)).draw = s.draw + 1 ∧
      (r ∈ [Reg.id, .ctrl, .cmd, .srcAddr, .srcLen, .dstAddr, .dstCap] →
        (s.hostRead (some r)).rdata = regValue s r) ∧
      (s.hostRead (some .status)).rdata =
        (regValue s .status &&& 0x0000000F#32) ||| (Config.freeValue s.draw 0 32 &&& 0x00000F30#32) ∧
      (r ∈ [Reg.resultLen, .origLen, .maxCode, .dictSize, .codeCount, .freq b, .codeBits b k, .nodePrio i] →
        (s.hostRead (some r)).rdata = Config.freeValue s.draw 0 32) ∧
      (r ∈ [Reg.leafCount, .root] →
        (s.hostRead (some r)).rdata = Config.freeValue s.draw 0 32 &&& 0x000001FF#32) ∧
      (s.hostRead (some .nodeCount)).rdata = Config.freeValue s.draw 0 32 &&& 0x000003FF#32 ∧
      (s.hostRead (some .codeWidth)).rdata = Config.freeValue s.draw 0 32 &&& 0x0000001F#32 ∧
      (s.hostRead (some (.codeLen b))).rdata = Config.freeValue s.draw 0 32 &&& 0x000000FF#32 ∧
      (s.hostRead (some (.nodeLink i))).rdata = Config.freeValue s.draw 0 32 &&& 0x83FFFFFF#32)

/-- R87: the interrupt output, from the bits the host reads; the input it is wired to; its value after reset. -/
def Obligations.InterruptOutputFollowsRegisters : Prop :=
  (∀ s : State,
    s.irq = ((regValue s .ctrl).getLsbD 1 && ((regValue s .status).getLsbD 1 || (regValue s .status).getLsbD 2)) ∧
      ∀ line, s.irqLevel line = (decide (line = s.plat.irqLine) && s.irq)) ∧
    State.reset.irq = false

/-- R1104, R1113: a host store changes its byte and nothing else of memory, and disturbs a running command exactly when a
window that the command uses holds the byte (the record of it is the model's, log 8). R164, R1112: a host load returns
the byte as stored, and any value in the DST window of a running command (a free value, logs 5 and 7); the loaded byte
stands zero-extended in the model's own field `rdata` (log 16), and nothing else changes. That the host reaches the
addresses whose engine accesses `P_MEM_OK` refuses is the model's choice (DESIGN CHOICE, log 31). R150 says that an address at
or above 2^32 does not exist; that either access then faults is the model's reading (DEDUCED, log 15). -/
def Obligations.HostStoreIntoRunningWindow : Prop :=
  ∀ (s : State) (a : Nat) (b : Byte),
    (s.mem.wf = true → a < 2 ^ 32 →
      ∃ t, hostStep (.memStore a b) s = .next t ∧ t.mem.read a = b ∧
        (∀ a', a' ≠ a → t.mem.read a' = s.mem.read a') ∧
        (t.disturbed = true ↔ s.disturbed = true ∨
          s.status.busy = true ∧ ∃ i, decode s.latch.cmd = .ok i ∧ inWindows i s a = true) ∧
        { t with mem := s.mem, disturbed := s.disturbed } = s) ∧
    (a < 2 ^ 32 →
      ((s.status.busy = true ∧ ∃ i, decode s.latch.cmd = .ok i ∧ inDst i s a = true) →
        hostStep (.memLoad a) s = .next
          { s with rdata := BitVec.setWidth 32 (Config.freeValue s.draw 0 8), draw := s.draw + 1 }) ∧
      (¬(s.status.busy = true ∧ ∃ i, decode s.latch.cmd = .ok i ∧ inDst i s a = true) →
        hostStep (.memLoad a) s = .next { s with rdata := BitVec.setWidth 32 (s.mem.read a) })) ∧
    (2 ^ 32 ≤ a → hostStep (.memStore a b) s = .fault (.absentAddress a) ∧
      hostStep (.memLoad a) s = .fault (.absentAddress a))

/-- R1113 and log 8: a command one of whose windows the host stored into still completes, with DONE or ERR and an
assigned error code; its DST bytes are free values, and what it does not write is as before. -/
def Obligations.DisturbedCommandStillCompletes : Prop :=
  ∀ (i : Instr) (s : State), s.disturbed = true → (usesSrc i = true ∨ usesDst i = true) → s.mem.wf = true →
    ∃ t, exec i s = .next t ∧ t.status.busy = false ∧ t.status.done = !t.status.err ∧
      t.status.ecode.toNat ≤ 13 ∧ KeepsArgs s t ∧ t.status.dropped = s.status.dropped ∧
      ∀ a, a < 2 ^ 32 →
        t.mem.read a =
          if usesDst i = true ∧ s.dstA ≤ a ∧ a < s.dstA + s.dstN then Config.freeValue s.draw a 8
          else s.mem.read a

/-! ### Reset -/

/-- R1100: the state after reset, at power-on and after a reset event in any state, as the host reads it; the
latches; the interrupt output; the engine waits. -/
def Obligations.ResetClearsEveryRegister : Prop :=
  (∀ r, regValue State.reset r =
    match r with
    | .id => 0x484C0001#32
    | .ctrl => 0x00000001#32
    | _ => 0#32) ∧
  State.reset.latch =
    { cmd := 0#32, srcAddr := 0#32, srcLen := 0#32, dstAddr := 0#32, dstCap := 0#32, origLen := 0#32,
      nogainEn := false } ∧
  State.reset.irq = false ∧
  (State.reset.hostRead none).rdata = 0#32 ∧
  step State.reset = .next State.reset ∧
  ∀ s : State, (∀ r, regValue s.hardReset r = regValue State.reset r) ∧ s.hardReset.latch = State.reset.latch ∧
    s.hardReset.irq = false ∧ (s.hardReset.hostRead none).rdata = 0#32 ∧
    (s.turns = [] → step s.hardReset = .next s.hardReset)

/-- R1101, R1102: a reset keeps every byte of memory but those of the DST window of a running command, which take
free values (log 13: of a command that uses one); no completion is reported. -/
def Obligations.ResetEventKeepsMemory : Prop :=
  ∀ (s : State) (ts : List Turn), s.turns = .reset :: ts → s.mem.wf = true →
    ∃ t, step s = .next t ∧ t.turns = ts ∧ t.plat = s.plat ∧ (∀ r, regValue t r = regValue State.reset r) ∧
      ∀ a, a < 2 ^ 32 →
        ((s.status.busy = true ∧ ∃ i, decode s.latch.cmd = .ok i ∧ inDst i s a = true) →
          t.mem.read a = Config.freeValue s.draw a 8) ∧
        (¬(s.status.busy = true ∧ ∃ i, decode s.latch.cmd = .ok i ∧ inDst i s a = true) →
          t.mem.read a = s.mem.read a)

/-! ### NOP and CLEAR -/

/-- R310: NOP, its word and its whole effect. -/
def Obligations.NopCompletes : Prop :=
  encode .nop = 0x00000000#32 ∧
    ∀ s : State, exec .nop s =
      .next { s with
        resultLen := 0#32
        status := { s.status with ecode := 0#4, done := true, busy := false }
        disturbed := false }

/-- R312: CLEAR, its word and its whole effect. -/
def Obligations.ClearCompletes : Prop :=
  encode .clear = 0x00000001#32 ∧
    ∀ s : State, ∃ t, exec .clear s = .next t ∧ Completed s t ∧ KeepsArgs s t ∧ KeepsMem s t ∧
      t.status.treeValid = false ∧ t.status.codesValid = false ∧
      ∀ r, r ∉ [Reg.ctrl, .status, .cmd, .srcAddr, .srcLen, .dstAddr, .dstCap] →
        regValue t r = regValue State.reset r

/-! ### FREQ_COUNT -/

/-- R400: FREQ_COUNT counts each byte value of the SRC window. -/
def Obligations.FreqCountCompletes : Prop :=
  ∀ s : State, s.disturbed = false → windowsOk .freqCount s = true → s.srcN ≠ 0 → s.SrcReadable →
    ∃ t, exec .freqCount s = .next t ∧ Completed s t ∧ t.resultLen = 0#32 ∧
      (∀ b, (atByte t.freq b).toNat = s.src.count b) ∧
      KeepsArgs s t ∧ KeepsTree s t ∧ KeepsCodes s t ∧ KeepsFlags s t ∧ KeepsOrig s t ∧ KeepsLzw s t ∧ KeepsMem s t

/-- R400: an empty SRC window ends FREQ_COUNT with EMPTY_INPUT and changes nothing; a refused read ends it with
BUS_ERROR and leaves the counts of the bytes before it. -/
def Obligations.FreqCountErrors : Prop :=
  ∀ s : State, s.disturbed = false → windowsOk .freqCount s = true →
    (s.srcN = 0 → ∃ t, exec .freqCount s = .next t ∧ FailedClean .emptyInput 0 s t) ∧
    (∀ n, n < s.srcN → allOk s.plat .read s.srcA n = true → memOk s.plat .read (s.srcA + n) = false →
      ∃ t, exec .freqCount s = .next t ∧ Failed .busError 0 s t ∧
        (∀ b, (atByte t.freq b).toNat = (s.mem.peek s.srcA n).count b) ∧
        KeepsArgs s t ∧ KeepsTree s t ∧ KeepsCodes s t ∧ KeepsFlags s t ∧ KeepsOrig s t ∧ KeepsLzw s t ∧
        KeepsMem s t)

/-! ### TREE_BUILD -/

/-- R401: the queue yields the element of least key, the key being (PRIO, index) in lexicographic order. -/
def Obligations.TakeMinExtractsLeastKey : Prop :=
  ∀ (ns : Nodes) (q : List Nat),
    (takeMin ns q = none ↔ q = []) ∧
      ∀ a q', takeMin ns q = some (a, q') →
        a ∈ q ∧ q' = q.erase a ∧
          ∀ b ∈ q, b = a ∨ (nodeAt ns a).prio.toNat < (nodeAt ns b).prio.toNat ∨
            (nodeAt ns a).prio.toNat = (nodeAt ns b).prio.toNat ∧ a < b

/-- R402, R404: TREE_BUILD completes; its numbering, its leaves and its frame. -/
def Obligations.TreeBuildCompletes : Prop :=
  ∀ s : State, (∃ b, atByte s.freq b ≠ 0#32) → (allBytes.map fun b => (atByte s.freq b).toNat).sum ≤ 2 ^ 32 - 1 →
    ∃ t, exec .treeBuild s = .next t ∧ Completed s t ∧ t.resultLen = 0#32 ∧
      t.status.treeValid = true ∧ t.status.codesValid = false ∧
      t.leafCount.toNat = (symsOf s.freq).length ∧ t.nodeCount.toNat = 2 * (symsOf s.freq).length - 1 ∧
      t.root.toNat = 2 * (symsOf s.freq).length - 2 ∧
      (∀ k b, (symsOf s.freq)[k]? = some b →
        nodeAt t.nodes k = { prio := atByte s.freq b, leaf := true, value := b, left := 0#9, right := 0#9 }) ∧
      (∀ k, 2 * (symsOf s.freq).length - 1 ≤ k → nodeAt t.nodes k = Node.zero) ∧
      KeepsArgs s t ∧ KeepsFreq s t ∧ KeepsCodes s t ∧ KeepsOrig s t ∧ KeepsLzw s t ∧ KeepsMem s t

/-- R402, R403, R407: every internal node was made of the two elements of least key of the queue at its creation, the
first LEFT and the second RIGHT, and its PRIO is the sum of theirs, without overflow. -/
def Obligations.TreeBuildMergesTheTwoLeast : Prop :=
  ∀ s t : State, exec .treeBuild s = .next t → t.status.ecode = 0#4 →
    ∀ i, (symsOf s.freq).length ≤ i → i < 2 * (symsOf s.freq).length - 1 →
      (nodeAt t.nodes i).leaf = false ∧ (nodeAt t.nodes i).value = 0#8 ∧
      (nodeAt t.nodes i).prio.toNat =
        (nodeAt t.nodes (nodeAt t.nodes i).left.toNat).prio.toNat +
          (nodeAt t.nodes (nodeAt t.nodes i).right.toNat).prio.toNat ∧
      ∃ q1 q2, takeMin t.nodes (queueBefore t.nodes (symsOf s.freq).length i) =
          some ((nodeAt t.nodes i).left.toNat, q1) ∧
        takeMin t.nodes q1 = some ((nodeAt t.nodes i).right.toNat, q2)

/-- R406, R405: the tree built is valid (R81), has one leaf per byte value of nonzero FREQ, and a path of it is
shorter than its number of leaves, so at most 255. -/
def Obligations.TreeBuildYieldsFullTree : Prop :=
  ∀ s t : State, exec .treeBuild s = .next t → t.status.ecode = 0#4 →
    t.treeOk = true ∧
      ∃ tr, t.tree = some tr ∧ tr.leaves.Nodup ∧ tr.leaves.length ≤ 256 ∧
        (∀ b, b ∈ tr.leaves ↔ atByte s.freq b ≠ 0#32) ∧
        ∀ b p, tr.path b = some p → p.length < tr.leaves.length

/-- R402, R1001, R1007: with no candidate, or a FREQ sum past 32 bits, TREE_BUILD fails and changes nothing. -/
def Obligations.TreeBuildPrechecks : Prop :=
  ∀ s : State,
    ((∀ b, atByte s.freq b = 0#32) → ∃ t, exec .treeBuild s = .next t ∧ FailedClean .emptyInput 0 s t) ∧
    (2 ^ 32 - 1 < (allBytes.map fun b => (atByte s.freq b).toNat).sum →
      ∃ t, exec .treeBuild s = .next t ∧ FailedClean .limit 0 s t)

/-! ### CODE_GEN -/

/-- R500 to R502, R76, R77: CODE_GEN records for each byte value the length and the number of its code in the current
tree, 0 and 0 where it has none. -/
def Obligations.CodeGenCompletes : Prop :=
  ∀ s : State, s.TreeInv → s.status.treeValid = true →
    ∃ t tr, s.tree = some tr ∧ exec .codeGen s = .next t ∧ Completed s t ∧ t.resultLen = 0#32 ∧
      t.status.treeValid = true ∧ t.status.codesValid = true ∧
      (∀ b, (atByte t.codeLen b).toNat = ((tr.code b).getD []).length ∧
        (atByte t.codeBits b).toNat = uint ((tr.code b).getD [])) ∧
      KeepsArgs s t ∧ KeepsFreq s t ∧ KeepsTree s t ∧ KeepsOrig s t ∧ KeepsLzw s t ∧ KeepsMem s t

/-- R503: no code CODE_GEN writes is a prefix of another. -/
def Obligations.CodesArePrefixFree : Prop :=
  ∀ s t : State, s.TreeInv → s.status.treeValid = true → exec .codeGen s = .next t →
    ∀ a b : Byte, a ≠ b → atByte t.codeLen a ≠ 0#8 → atByte t.codeLen b ≠ 0#8 →
      ¬ codeOf t.codeLen t.codeBits a <+: codeOf t.codeLen t.codeBits b

/-- R504: the code lengths fill the tree, or half of it for one leaf; as many byte values are coded as there are
leaves. The sum of 2^(-length) is written over the denominator 2^255. -/
def Obligations.CodeLengthsFillTheTree : Prop :=
  ∀ s t : State, s.TreeInv → s.status.treeValid = true → exec .codeGen s = .next t →
    (allBytes.map fun b => if atByte t.codeLen b = 0#8 then 0 else 2 ^ (255 - (atByte t.codeLen b).toNat)).sum =
        (if s.leafCount.toNat = 1 then 2 ^ 254 else 2 ^ 255) ∧
      (allBytes.filter fun b => decide (atByte t.codeLen b ≠ 0#8)).length = s.leafCount.toNat

/-- R1012: a component command without the tree or table it reads fails with SEQUENCE and changes nothing. -/
def Obligations.MissingPrerequisiteIsSequenceError : Prop :=
  ∀ (i : Instr) (s : State), s.disturbed = false → windowsOk i s = true →
    (i ∈ [Instr.treeSerialize, .codeGen, .bitUnpack] ∧ s.status.treeValid = false ∨
      i = .bitPack ∧ s.status.codesValid = false) →
      ∃ t, exec i s = .next t ∧ FailedClean .sequence 0 s t

/-! ### TREE_SERIALIZE and TREE_DESERIALIZE -/

/-- R601: TREE_SERIALIZE writes the canonical serialization of the current tree. A DST window too short for it is
OUT_OF_SPACE, which reports its length and changes nothing else (R1008); a refused write is BUS_ERROR with every DST byte
a free value (R1011, R163; log 6). -/
def Obligations.TreeSerializeCompletes : Prop :=
  ∀ s : State, s.disturbed = false → windowsOk .treeSerialize s = true → s.status.treeValid = true →
    (s.TreeInv → s.mem.wf = true → 2 + treeBytes s.leafCount.toNat ≤ s.dstN →
      (s.DstWritable (2 + treeBytes s.leafCount.toNat) →
        ∃ t tr, s.tree = some tr ∧ tr.leaves.length = s.leafCount.toNat ∧ exec .treeSerialize s = .next t ∧
          Completed s t ∧ t.resultLen.toNat = 2 + treeBytes s.leafCount.toNat ∧
          WroteDst (ser tr.leaves.length tr) s t ∧ (ser tr.leaves.length tr).length = t.resultLen.toNat ∧
          KeepsArgs s t ∧ KeepsResults s t) ∧
      (¬ s.DstWritable (2 + treeBytes s.leafCount.toNat) →
        ∃ t, exec .treeSerialize s = .next t ∧ Failed .busError 0 s t ∧ KeepsArgs s t ∧ KeepsResults s t ∧
          MemAfterError true s t)) ∧
    (s.dstN < 2 + treeBytes s.leafCount.toNat →
      ∃ t, exec .treeSerialize s = .next t ∧ FailedClean .outOfSpace (2 + treeBytes s.leafCount.toNat) s t)

/-- R207: the size of a serialized tree. -/
def Obligations.SerializationHasStatedLength : Prop :=
  (∀ t : Tree, t.inner = t.leaves.length - 1 ∧ t.pre.length = (2 * t.leaves.length - 1) + 8 * t.leaves.length ∧
    t.pre.length = 10 * t.leaves.length - 1 ∧ (ser t.leaves.length t).length = 2 + treeBytes t.leaves.length) ∧
  (∀ l, treeBytes l = ceilDiv (10 * l - 1) 8) ∧
  treeBytes 1 = 2 ∧ treeBytes 2 = 3 ∧ treeBytes 3 = 4 ∧ treeBytes 256 = 320

/-- R602: the serialization depends on the shape and the leaf values alone, and determines both. -/
def Obligations.SerializationDeterminesTree : Prop :=
  ∀ t u : Tree, ser t.leaves.length t = ser u.leaves.length u ↔ t = u

/-- R612 to R614: TREE_DESERIALIZE of the serialization of any tree the engine can hold rebuilds that tree, numbered
in preorder from ROOT = 0 with PRIO 0, whatever follows it in the SRC window. -/
def Obligations.TreeDeserializeRebuildsTree : Prop :=
  ∀ (s : State) (tr : Tree), s.disturbed = false → windowsOk .treeDeserialize s = true → tr.legal →
    2 + treeBytes tr.leaves.length ≤ s.srcN → allOk s.plat .read s.srcA (2 + treeBytes tr.leaves.length) = true →
    s.mem.peek s.srcA (2 + treeBytes tr.leaves.length) = ser tr.leaves.length tr →
    ∃ t, exec .treeDeserialize s = .next t ∧ Completed s t ∧
      t.resultLen.toNat = 2 + treeBytes tr.leaves.length ∧ t.tree = some tr ∧ t.treeOk = true ∧
      t.leafCount.toNat = tr.leaves.length ∧ t.nodeCount.toNat = 2 * tr.leaves.length - 1 ∧ t.root = 0#9 ∧
      t.status.treeValid = true ∧ t.status.codesValid = false ∧
      reach Config.maxNodes t.nodes 0 = some (List.range (2 * tr.leaves.length - 1)) ∧
      (∀ k, (nodeAt t.nodes k).prio = 0#32) ∧
      (∀ k, 2 * tr.leaves.length - 1 ≤ k → nodeAt t.nodes k = Node.zero) ∧
      KeepsArgs s t ∧ KeepsFreq s t ∧ KeepsCodes s t ∧ KeepsOrig s t ∧ KeepsLzw s t ∧ KeepsMem s t

/-- R611, R614: what TREE_DESERIALIZE accepts is the one serialization of the valid tree it leaves. -/
def Obligations.AcceptedSerializationIsCanonical : Prop :=
  ∀ s t : State, s.disturbed = false → exec .treeDeserialize s = .next t → t.status.ecode = 0#4 →
    t.treeOk = true ∧
      ∃ tr, t.tree = some tr ∧ tr.legal ∧
        s.mem.peek s.srcA (2 + treeBytes t.leafCount.toNat) = ser t.leafCount.toNat tr ∧
        t.resultLen.toNat = 2 + treeBytes t.leafCount.toNat

/-- R612, R1003: a serialization cut short, or with a leaf count outside 1 to 256, ends TREE_DESERIALIZE with
CORRUPT_TREE before any state changes. One that passes these checks and is no tree's (a set padding bit, a leaf value
twice, too many nodes, bits run out or left over: R610, R611) ends it with CORRUPT_TREE and no valid tree; ROOT,
LEAF_COUNT, NODE_COUNT and memory are kept. -/
def Obligations.TruncatedSerializationIsCorrupt : Prop :=
  ∀ s : State, s.disturbed = false → windowsOk .treeDeserialize s = true →
    (s.srcN < 2 ∨
        allOk s.plat .read s.srcA 2 = true ∧
          (beNat (s.mem.peek s.srcA 2) = 0 ∨ 256 < beNat (s.mem.peek s.srcA 2) ∨
            s.srcN < 2 + treeBytes (beNat (s.mem.peek s.srcA 2))) →
      ∃ t, exec .treeDeserialize s = .next t ∧ FailedClean .corruptTree 0 s t) ∧
    ∀ l : Nat, beNat (s.mem.peek s.srcA 2) = l → 1 ≤ l → l ≤ 256 → 2 + treeBytes l ≤ s.srcN →
      allOk s.plat .read s.srcA (2 + treeBytes l) = true →
      (∀ tr : Tree, tr.legal → s.mem.peek s.srcA (2 + treeBytes l) ≠ ser tr.leaves.length tr) →
      ∃ t, exec .treeDeserialize s = .next t ∧ Failed .corruptTree 0 s t ∧ t.status.treeValid = false ∧
        t.status.codesValid = false ∧ t.root = s.root ∧ t.leafCount = s.leafCount ∧ t.nodeCount = s.nodeCount ∧
        KeepsArgs s t ∧ KeepsFreq s t ∧ KeepsCodes s t ∧ KeepsOrig s t ∧ KeepsLzw s t ∧ KeepsMem s t

/-! ### BIT_PACK and BIT_UNPACK -/

/-- R208: the packed stream: its bits, its length, and that unpacking inverts packing; the two malformed streams. -/
def Obligations.PackedStreamRoundTrip : Prop :=
  (∀ p : Bits, unpack (pack p) = some p ∧ (pack p).length = ceilDiv (p.length + 1) 8 ∧ 1 ≤ (pack p).length ∧
    bitsOf (pack p) = List.replicate ((8 - (p.length + 1) % 8) % 8) false ++ true :: p) ∧
  unpack [] = none ∧ (∀ bs, unpack (0#8 :: bs) = none) ∧
  ∀ (b : Byte) (bs : List Byte), b ≠ 0#8 →
    ∃ z, z ≤ 7 ∧ (bin 8 b.toNat).take (z + 1) = List.replicate z false ++ [true] ∧
      unpack (b :: bs) = some ((bitsOf (b :: bs)).drop (z + 1))

/-- R700 to R703: BIT_PACK writes the packed codes of the SRC bytes. -/
def Obligations.BitPackCompletes : Prop :=
  ∀ s : State, s.mem.wf = true → s.disturbed = false → windowsOk .bitPack s = true → s.status.codesValid = true →
    s.srcN ≠ 0 → s.SrcReadable → (∀ b ∈ s.src, atByte s.codeLen b ≠ 0#8) →
    packedLen (s.src.map fun b => (atByte s.codeLen b).toNat).sum ≤ s.dstN →
    s.DstWritable (packedLen (s.src.map fun b => (atByte s.codeLen b).toNat).sum) →
    ∃ t, exec .bitPack s = .next t ∧ Completed s t ∧
      t.resultLen.toNat = packedLen (s.src.map fun b => (atByte s.codeLen b).toNat).sum ∧
      t.resultLen.toNat = (pack (s.src.flatMap (codeOf s.codeLen s.codeBits))).length ∧
      WroteDst (pack (s.src.flatMap (codeOf s.codeLen s.codeBits))) s t ∧
      KeepsArgs s t ∧ KeepsResults s t

/-- R702, R1013: BIT_PACK's errors before its first write. -/
def Obligations.BitPackErrors : Prop :=
  ∀ s : State, s.disturbed = false → windowsOk .bitPack s = true → s.status.codesValid = true →
    (s.srcN = 0 → ∃ t, exec .bitPack s = .next t ∧ FailedClean .emptyInput 0 s t) ∧
    (s.SrcReadable → (∃ b ∈ s.src, atByte s.codeLen b = 0#8) →
      ∃ t, exec .bitPack s = .next t ∧ FailedClean .noCode 0 s t) ∧
    (s.srcN ≠ 0 → s.SrcReadable → (∀ b ∈ s.src, atByte s.codeLen b ≠ 0#8) →
      s.dstN < packedLen (s.src.map fun b => (atByte s.codeLen b).toNat).sum →
      ∃ t, exec .bitPack s = .next t ∧
        FailedClean .outOfSpace (packedLen (s.src.map fun b => (atByte s.codeLen b).toNat).sum) s t)

/-- R711, R712, R714: BIT_UNPACK decodes a stream whose payload is the codes of ORIG_LEN byte values of the tree. -/
def Obligations.BitUnpackCompletes : Prop :=
  ∀ (s : State) (tr : Tree) (bs : List Byte), s.TreeInv → s.mem.wf = true → s.disturbed = false →
    windowsOk .bitUnpack s = true → s.status.treeValid = true → s.tree = some tr → s.SrcReadable →
    (∀ b ∈ bs, b ∈ tr.leaves) → bs ≠ [] → unpack s.src = some (tr.payload bs) →
    s.latch.origLen.toNat = bs.length → bs.length ≤ s.dstN → s.DstWritable bs.length →
    ∃ t, exec .bitUnpack s = .next t ∧ Completed s t ∧ t.resultLen.toNat = bs.length ∧ WroteDst bs s t ∧
      KeepsArgs s t ∧ KeepsResults s t

/-- R711 to R713, R162, R163: BIT_UNPACK's errors with a valid tree. ORIG_LEN = 0 is FORMAT. For another ORIG_LEN: an empty
stream or one whose first byte is 0 is FORMAT, a DST window too short for ORIG_LEN bytes is OUT_OF_SPACE, and a payload
that holds fewer or more symbols than ORIG_LEN, that ends inside a code or that has bits left over is
LENGTH_MISMATCH; once a symbol has been written, every DST byte is a free value (log 6). -/
def Obligations.BitUnpackWrongLengthIsMismatch : Prop :=
  ∀ (s : State) (tr : Tree), s.TreeInv → s.mem.wf = true → s.disturbed = false → windowsOk .bitUnpack s = true →
    s.status.treeValid = true → s.tree = some tr →
    (s.latch.origLen = 0#32 → ∃ t, exec .bitUnpack s = .next t ∧ FailedClean .format 0 s t) ∧
    (s.latch.origLen ≠ 0#32 → ∀ (e : ErrCode) (n : Nat) (late : Bool),
      StreamRefused tr s.latch.origLen.toNat s.dstN s.src e n late →
      (e = .outOfSpace ∨ s.SrcReadable) → (e = .lengthMismatch → s.DstWritable s.dstN) →
      ∃ t, exec .bitUnpack s = .next t ∧ Failed e n s t ∧ KeepsArgs s t ∧ KeepsResults s t ∧ MemAfterError late s t)

/-- R713: with a one-leaf tree every symbol takes one payload bit, whatever its value, and is the leaf's value. -/
def Obligations.OneLeafSymbolsTakeOneBit : Prop :=
  ∀ (s : State) (v : Byte) (p : Bits), s.TreeInv → s.mem.wf = true → s.disturbed = false →
    windowsOk .bitUnpack s = true → s.status.treeValid = true → s.tree = some (.leaf v) → s.SrcReadable →
    unpack s.src = some p → p ≠ [] → s.latch.origLen.toNat = p.length → p.length ≤ s.dstN →
    s.DstWritable p.length →
    ∃ t, exec .bitUnpack s = .next t ∧ Completed s t ∧ t.resultLen.toNat = p.length ∧
      WroteDst (List.replicate p.length v) s t ∧ KeepsArgs s t ∧ KeepsResults s t

/-! ### The Huffman codec -/

/-- R801, R802: HUF_COMPRESS writes the container of its input under the tree of its input, and leaves the histogram,
the tree, the code table and ORIG_LEN of the input. -/
def Obligations.HufCompressWritesContainer : Prop :=
  ∀ (s : State) (tr : Tree), s.mem.wf = true → s.disturbed = false → windowsOk .hufCompress s = true →
    s.srcN ≠ 0 → s.SrcReadable → treeOfBytes s.src = some tr →
    (s.latch.nogainEn = false ∨ (hufContainer tr s.src).length < s.srcN) →
    (hufContainer tr s.src).length ≤ s.dstN → s.DstWritable (hufContainer tr s.src).length →
    ∃ t, exec .hufCompress s = .next t ∧ Completed s t ∧ t.resultLen.toNat = (hufContainer tr s.src).length ∧
      (hufContainer tr s.src).length =
        6 + treeBytes tr.leaves.length + ceilDiv ((tr.payload s.src).length + 1) 8 ∧
      WroteDst (hufContainer tr s.src) s t ∧ t.origLen = s.latch.srcLen ∧
      (∀ b, (atByte t.freq b).toNat = s.src.count b) ∧ t.tree = some tr ∧ t.treeOk = true ∧
      t.leafCount.toNat = tr.leaves.length ∧ (∀ b, b ∈ tr.leaves ↔ b ∈ s.src) ∧
      (∀ b, codeOf t.codeLen t.codeBits b = (tr.code b).getD []) ∧
      t.status.treeValid = true ∧ t.status.codesValid = true ∧ KeepsArgs s t ∧ KeepsLzw s t

/-- R802, R803, R1001, R1002, R1008: an empty SRC window ends HUF_COMPRESS with EMPTY_INPUT and changes nothing. A
container that is not smaller than the input ends it with NO_GAIN while NOGAIN_EN is 1; one that does not fit the DST
window with OUT_OF_SPACE. Both report its length, keep the tables and write nothing. -/
def Obligations.HufCompressRefusals : Prop :=
  ∀ s : State, s.disturbed = false → windowsOk .hufCompress s = true →
    (s.srcN = 0 → ∃ t, exec .hufCompress s = .next t ∧ FailedClean .emptyInput 0 s t) ∧
    ∀ (tr : Tree) (e : ErrCode), s.srcN ≠ 0 → s.SrcReadable → treeOfBytes s.src = some tr →
      (e = .noGain ∧ s.latch.nogainEn = true ∧ s.srcN ≤ (hufContainer tr s.src).length ∨
        e = .outOfSpace ∧ (s.latch.nogainEn = false ∨ (hufContainer tr s.src).length < s.srcN) ∧
          s.dstN < (hufContainer tr s.src).length) →
      ∃ t, exec .hufCompress s = .next t ∧ Failed e (hufContainer tr s.src).length s t ∧
        t.origLen = s.latch.srcLen ∧ (∀ b, (atByte t.freq b).toNat = s.src.count b) ∧ t.tree = some tr ∧
        (∀ b, codeOf t.codeLen t.codeBits b = (tr.code b).getD []) ∧
        t.status.treeValid = true ∧ t.status.codesValid = true ∧ KeepsArgs s t ∧ KeepsLzw s t ∧ KeepsMem s t

/-- R810, R812, R713: HUF_DECOMPRESS of a length, any tree and a stream whose payload is that many symbols of the tree,
as every container of R209 is, writes the symbols and leaves the tree and ORIG_LEN. Its refusals: no room for the original length, or 0 there, is
FORMAT and changes nothing; after that ORIG_LEN is the container's. A serialization cut short or with a leaf count
outside 1 to 256 is CORRUPT_TREE with the tree kept; one that is no tree's is CORRUPT_TREE with TREE_VALID = 0; and
after a good tree, which is kept, the payload is refused as BIT_UNPACK refuses it. -/
def Obligations.HufDecompressRestoresInput : Prop :=
  ∀ s : State, s.mem.wf = true → s.disturbed = false → windowsOk .hufDecompress s = true → s.SrcReadable →
    (∀ (tr : Tree) (bs B : List Byte) (p : Bits), tr.legal → bs ≠ [] → unpack B = some p → tr.splits p bs [] →
      s.src = be32 bs.length ++ (ser tr.leaves.length tr ++ B) → bs.length ≤ s.dstN → s.DstWritable bs.length →
      ∃ t, exec .hufDecompress s = .next t ∧ Completed s t ∧ t.resultLen.toNat = bs.length ∧ WroteDst bs s t ∧
        t.origLen.toNat = bs.length ∧ t.tree = some tr ∧ t.treeOk = true ∧
        t.leafCount.toNat = tr.leaves.length ∧ t.root = 0#9 ∧
        t.status.treeValid = true ∧ t.status.codesValid = false ∧
        KeepsArgs s t ∧ KeepsFreq s t ∧ KeepsCodes s t ∧ KeepsLzw s t) ∧
    (s.srcN < 4 ∨ beNat (s.src.take 4) = 0 →
      ∃ t, exec .hufDecompress s = .next t ∧ FailedClean .format 0 s t) ∧
    (∀ (n : Nat) (rest : List Byte), 0 < n → n < 2 ^ 32 → s.src = be32 n ++ rest →
      (rest.length < 2 ∨ beNat (rest.take 2) = 0 ∨ 256 < beNat (rest.take 2) ∨
          rest.length < 2 + treeBytes (beNat (rest.take 2)) →
        ∃ t, exec .hufDecompress s = .next t ∧ Failed .corruptTree 0 s t ∧ t.origLen.toNat = n ∧ KeepsTree s t ∧
          KeepsFlags s t ∧ KeepsArgs s t ∧ KeepsFreq s t ∧ KeepsCodes s t ∧ KeepsLzw s t ∧ KeepsMem s t) ∧
      (0 < beNat (rest.take 2) → beNat (rest.take 2) ≤ 256 → 2 + treeBytes (beNat (rest.take 2)) ≤ rest.length →
        (∀ tr : Tree, tr.legal → ¬ ser tr.leaves.length tr <+: rest) →
        ∃ t, exec .hufDecompress s = .next t ∧ Failed .corruptTree 0 s t ∧ t.origLen.toNat = n ∧
          t.status.treeValid = false ∧ t.status.codesValid = false ∧ t.root = s.root ∧ t.leafCount = s.leafCount ∧
          t.nodeCount = s.nodeCount ∧ KeepsArgs s t ∧ KeepsFreq s t ∧ KeepsCodes s t ∧ KeepsLzw s t ∧ KeepsMem s t) ∧
      (∀ (tr : Tree) (B : List Byte) (e : ErrCode) (len : Nat) (late : Bool), tr.legal →
        rest = ser tr.leaves.length tr ++ B → StreamRefused tr n s.dstN B e len late →
        (e = .lengthMismatch → s.DstWritable s.dstN) →
        ∃ t, exec .hufDecompress s = .next t ∧ Failed e len s t ∧ t.origLen.toNat = n ∧ t.tree = some tr ∧
          t.treeOk = true ∧ t.leafCount.toNat = tr.leaves.length ∧ t.root = 0#9 ∧ t.status.treeValid = true ∧
          t.status.codesValid = false ∧ KeepsArgs s t ∧ KeepsFreq s t ∧ KeepsCodes s t ∧ KeepsLzw s t ∧
          MemAfterError late s t))

/-- R813: HUF_DECOMPRESS, in any state, of a container that HUF_COMPRESS wrote restores the input. -/
def Obligations.HuffmanRoundTrip : Prop :=
  ∀ s t u : State, s.mem.wf = true → s.disturbed = false → exec .hufCompress s = .next t →
    t.status.ecode = 0#4 → u.mem.wf = true → u.disturbed = false → windowsOk .hufDecompress u = true →
    u.src = t.mem.peek s.dstA t.resultLen.toNat → u.SrcReadable → s.srcN ≤ u.dstN → u.DstWritable s.srcN →
    ∃ v, exec .hufDecompress u = .next v ∧ Completed u v ∧ v.resultLen.toNat = s.srcN ∧ WroteDst s.src u v

/-! ### The LZW codec -/

/-- R901, R904: the codes of an encode name patterns that make up the input in order; each is the longest pattern of the
dictionary at its place of the input, and the dictionary then holds one entry more, that pattern with the next byte.
So as many codes as patterns, the size an encode ends with, and each code below the size at the time it is emitted.
R900, R1007: every input has an encode in a dictionary with room for it, and one of `cap` entries gives the same encode
or, exactly when that one ends with more entries, LIMIT. -/
def Obligations.LzwEncoderCounts : Prop :=
  (∀ (cap : Nat) (bs : List Byte) (ks : List Nat) (d : Dict), bs ≠ [] → lzwEncode cap bs = some (ks, d) →
    1 ≤ ks.length ∧ ks.length ≤ bs.length ∧ d.size = 256 + ks.length - 1 ∧
      (∀ (j k : Nat), ks[j]? = some k → k < 256 + j) ∧
      ∃ ps : List Pattern, ps.length = ks.length ∧ ps.flatten = bs ∧ d = dictOf ps ∧
        ∀ (j k : Nat) (p : Pattern), ks[j]? = some k → ps[j]? = some p →
          p ≠ [] ∧ Dict.entry { added := d.added.take j } k = some p ∧
            ∀ (k' : Nat) (q : Pattern), Dict.entry { added := d.added.take j } k' = some q →
              q <+: (ps.drop j).flatten → q.length ≤ p.length) ∧
  ∀ bs : List Byte, bs ≠ [] →
    ∃ ks d, lzwEncode (256 + bs.length) bs = some (ks, d) ∧
      ∀ cap, 256 ≤ cap → lzwEncode cap bs = if d.size ≤ cap then some (ks, d) else none

/-- R902, R903: LZW_COMPRESS writes the container of the codes of its input at the width of the largest code, and
leaves the four result registers. -/
def Obligations.LzwCompressWritesContainer : Prop :=
  ∀ (s : State) (ks : List Nat) (d : Dict), s.mem.wf = true → s.plat.wf = true → s.disturbed = false →
    windowsOk .lzwCompress s = true → s.srcN ≠ 0 → s.SrcReadable →
    lzwEncode s.plat.lzwDictMax s.src = some (ks, d) →
    (s.latch.nogainEn = false ∨ (lzwBytes (max 1 (bitlen (maxOf ks))) ks).length < s.srcN) →
    (lzwBytes (max 1 (bitlen (maxOf ks))) ks).length ≤ s.dstN →
    s.DstWritable (lzwBytes (max 1 (bitlen (maxOf ks))) ks).length →
    ∃ t, exec .lzwCompress s = .next t ∧ Completed s t ∧
      t.resultLen.toNat = (lzwBytes (max 1 (bitlen (maxOf ks))) ks).length ∧
      t.resultLen.toNat = 1 + ceilDiv (ks.length * max 1 (bitlen (maxOf ks)) + 1) 8 ∧
      WroteDst (lzwBytes (max 1 (bitlen (maxOf ks))) ks) s t ∧
      t.codeWidth.toNat = max 1 (bitlen (maxOf ks)) ∧ (∀ k ∈ ks, k < 2 ^ t.codeWidth.toNat) ∧
      t.maxCode.toNat = maxOf ks ∧ t.codeCount.toNat = ks.length ∧ t.dictSize.toNat = d.size ∧
      KeepsArgs s t ∧ KeepsFreq s t ∧ KeepsTree s t ∧ KeepsCodes s t ∧ KeepsFlags s t ∧ KeepsOrig s t

/-- R902, R905, R1001, R1007: LZW_COMPRESS's errors before its first write: an empty SRC window and a full dictionary
change no register but STATUS and RESULT_LEN; NO_GAIN and OUT_OF_SPACE report the container length and leave the four
result registers. -/
def Obligations.LzwCompressRefusals : Prop :=
  ∀ s : State, s.plat.wf = true → s.disturbed = false → windowsOk .lzwCompress s = true →
    (s.srcN = 0 → ∃ t, exec .lzwCompress s = .next t ∧ FailedClean .emptyInput 0 s t) ∧
    (s.srcN ≠ 0 → s.SrcReadable → lzwEncode s.plat.lzwDictMax s.src = none →
      ∃ t, exec .lzwCompress s = .next t ∧ FailedClean .limit 0 s t) ∧
    (∀ (ks : List Nat) (d : Dict) (e : ErrCode), s.srcN ≠ 0 → s.SrcReadable →
      lzwEncode s.plat.lzwDictMax s.src = some (ks, d) →
      (e = .noGain ∧ s.latch.nogainEn = true ∧ s.srcN ≤ (lzwBytes (max 1 (bitlen (maxOf ks))) ks).length ∨
        e = .outOfSpace ∧
          (s.latch.nogainEn = false ∨ (lzwBytes (max 1 (bitlen (maxOf ks))) ks).length < s.srcN) ∧
          s.dstN < (lzwBytes (max 1 (bitlen (maxOf ks))) ks).length) →
      ∃ t, exec .lzwCompress s = .next t ∧ Failed e (lzwBytes (max 1 (bitlen (maxOf ks))) ks).length s t ∧
        t.codeWidth.toNat = max 1 (bitlen (maxOf ks)) ∧ t.maxCode.toNat = maxOf ks ∧
        t.codeCount.toNat = ks.length ∧ t.dictSize.toNat = d.size ∧
        KeepsArgs s t ∧ KeepsFreq s t ∧ KeepsTree s t ∧ KeepsCodes s t ∧ KeepsFlags s t ∧ KeepsOrig s t ∧
        KeepsMem s t)

/-- R910 to R912: LZW_DECOMPRESS of codes that stand for patterns, at any width from 1 to 31 that holds them, writes the
patterns and leaves the codes' counts and the size. R913: the codes of an encode are such codes, their patterns make up
the input, and the dictionary is the encoder's. Its refusals: a malformed header or stream is FORMAT and changes
nothing; a code that has no pattern is UNKNOWN_CODE, one for which the dictionary is full LIMIT, one whose pattern does
not fit the DST window OUT_OF_SPACE, and the result registers then describe the codes read, the failing one
included. -/
def Obligations.LzwDecompressRestoresInput : Prop :=
  ∀ s : State, s.mem.wf = true → s.plat.wf = true → s.disturbed = false → windowsOk .lzwDecompress s = true →
    s.SrcReadable →
    (∀ (ks : List Nat) (ps : List Pattern) (w : Nat), ks ≠ [] → DecodesTo s.plat.lzwDictMax ks ps →
      1 ≤ w → w ≤ 31 → (∀ k ∈ ks, k < 2 ^ w) → s.src = lzwBytes w ks → ps.flatten.length ≤ s.dstN →
      s.DstWritable ps.flatten.length →
      ∃ t, exec .lzwDecompress s = .next t ∧ Completed s t ∧ t.resultLen.toNat = ps.flatten.length ∧
        WroteDst ps.flatten s t ∧
        t.codeWidth.toNat = w ∧ t.maxCode.toNat = maxOf ks ∧ t.codeCount.toNat = ks.length ∧
        t.dictSize.toNat = (dictOf ps).size ∧
        KeepsArgs s t ∧ KeepsFreq s t ∧ KeepsTree s t ∧ KeepsCodes s t ∧ KeepsFlags s t ∧ KeepsOrig s t) ∧
    (∀ (bs : List Byte) (ks : List Nat) (d : Dict), bs ≠ [] → lzwEncode s.plat.lzwDictMax bs = some (ks, d) →
      ∃ ps, DecodesTo s.plat.lzwDictMax ks ps ∧ ps.flatten = bs ∧ dictOf ps = d) ∧
    (s.srcN < 2 ∨
        (∃ h B, s.src = h :: B ∧
          (32 ≤ h.toNat ∨ h = 0#8 ∨ unpack B = none ∨
            ∃ p, unpack B = some p ∧ (p = [] ∨ p.length % h.toNat ≠ 0))) →
      ∃ t, exec .lzwDecompress s = .next t ∧ FailedClean .format 0 s t) ∧
    (∀ (w k : Nat) (pre post : List Nat) (ps : List Pattern) (e : ErrCode) (size : Nat), 1 ≤ w → w ≤ 31 →
      (∀ c ∈ pre ++ k :: post, c < 2 ^ w) → s.src = lzwBytes w (pre ++ k :: post) → s.DstWritable s.dstN →
      DecodesTo s.plat.lzwDictMax pre ps → ps.flatten.length ≤ s.dstN →
      CodeRefused s.plat.lzwDictMax s.dstN pre ps k e size →
      ∃ t, exec .lzwDecompress s = .next t ∧ Failed e 0 s t ∧ t.codeWidth.toNat = w ∧
        t.codeCount.toNat = pre.length + 1 ∧ t.maxCode.toNat = maxOf (pre ++ [k]) ∧ t.dictSize.toNat = size ∧
        KeepsArgs s t ∧ KeepsFreq s t ∧ KeepsTree s t ∧ KeepsCodes s t ∧ KeepsFlags s t ∧ KeepsOrig s t ∧
        MemAfterError (!ps.isEmpty) s t)

/-- R914: LZW_DECOMPRESS, in any state with the same dictionary capacity, of a container that LZW_COMPRESS wrote
restores the input and the four result registers. -/
def Obligations.LzwRoundTrip : Prop :=
  ∀ s t u : State, s.mem.wf = true → s.plat.wf = true → s.disturbed = false → exec .lzwCompress s = .next t →
    t.status.ecode = 0#4 → u.mem.wf = true → u.plat.wf = true → u.disturbed = false →
    windowsOk .lzwDecompress u = true →
    u.plat.lzwDictMax = s.plat.lzwDictMax → u.src = t.mem.peek s.dstA t.resultLen.toNat → u.SrcReadable →
    s.srcN ≤ u.dstN → u.DstWritable s.srcN →
    ∃ v, exec .lzwDecompress u = .next v ∧ Completed u v ∧ v.resultLen.toNat = s.srcN ∧ WroteDst s.src u v ∧
      KeepsLzw t v

/-! ### Invariants -/

/-- R1100: the invariant holds after reset. -/
def Obligations.InvHoldsAtReset : Prop := State.reset.Inv ∧ State.reset.TurnsWf

/-- R56, R85, R88, R300, R303, R1014: every step keeps BUSY, DONE and ERR apart, the error code assigned, and the
latches equal to the registers while BUSY. -/
def Obligations.StepKeepsLifecycleInv : Prop :=
  ∀ s t : State, s.LifecycleInv → step s = .next t → t.LifecycleInv

/-- R81, R82: every step keeps TREE_VALID over a valid tree only and CODES_VALID over the code table of that tree
only. -/
def Obligations.StepKeepsTablesInv : Prop :=
  ∀ s t : State, s.TreeInv ∧ s.CodesInv → step s = .next t → t.TreeInv ∧ t.CodesInv

/-- Every step of a state with the invariant keeps memory's canonical form (R150: no byte at or above 2^32). -/
def Obligations.StepKeepsMemoryForm : Prop :=
  ∀ s t : State, s.Inv → step s = .next t → t.mem.wf = true

/-- Every step from a state with the invariant and admitted turns answers a next state, with the invariant and
admitted turns again: the model stops only where the host leaves the interface (R90, R150). -/
def Obligations.StepFromInvariantNeverStops : Prop :=
  ∀ s : State, s.Inv → s.TurnsWf → SafeStep s
end

