-- ==== Sys2Proof/Laws/Bits.lean ====
section
/-! SUPPORT. Bit strings: lengths, numbers, whole bytes, and the accumulator of R703 as one `emit`. -/

namespace Sys2Proof.Machine

@[simp] theorem bin_length (k v : Nat) : (bin k v).length = k := by
  induction k with
  | zero => rfl
  | succ k ih => simp [bin, ih]

theorem uintFrom_append (acc : Nat) (s t : Bits) : uintFrom acc (s ++ t) = uintFrom (uintFrom acc s) t := by
  induction s generalizing acc with
  | nil => rfl
  | cons b s ih => simp [uintFrom, ih]

theorem uintFrom_eq (acc : Nat) (s : Bits) : uintFrom acc s = acc * 2 ^ s.length + uint s := by
  induction s generalizing acc with
  | nil => simp [uintFrom, uint]
  | cons b s ih =>
    have h := ih b.toNat
    simp only [uintFrom, uint, List.length_cons] at *
    rw [ih (2 * acc + b.toNat), show 2 * 0 + b.toNat = b.toNat by omega, h]
    ring

@[simp] theorem uint_nil : uint [] = 0 := rfl

theorem uint_cons (b : Bool) (s : Bits) : uint (b :: s) = b.toNat * 2 ^ s.length + uint s := by
  have h := uintFrom_eq b.toNat s
  simpa [uint, uintFrom] using h

theorem uint_append (s t : Bits) : uint (s ++ t) = uint s * 2 ^ t.length + uint t := by
  unfold uint
  rw [uintFrom_append, uintFrom_eq]
  rfl

/-- A number of `n` digits is below `2^n` (R11). -/
theorem uint_lt (s : Bits) : uint s < 2 ^ s.length := by
  induction s with
  | nil => simp
  | cons b s ih =>
    rw [uint_cons, List.length_cons, pow_succ]
    cases b <;> simp <;> omega

/-- `uint` undoes `bin` up to the width (R11). -/
theorem uint_bin (k v : Nat) : uint (bin k v) = v % 2 ^ k := by
  induction k with
  | zero => simp [bin, Nat.mod_one]
  | succ k ih =>
    rw [bin, uint_cons, ih, bin_length, pow_succ, Nat.mod_mul, Nat.toNat_testBit, add_comm, mul_comm]

theorem uint_bin_of_lt {k v : Nat} (h : v < 2 ^ k) : uint (bin k v) = v := by
  rw [uint_bin, Nat.mod_eq_of_lt h]

theorem bin_eq_of_mod {k v w : Nat} (h : v % 2 ^ k = w % 2 ^ k) : bin k v = bin k w := by
  induction k with
  | zero => rfl
  | succ k ih =>
    have hk : v % 2 ^ k = w % 2 ^ k := by
      have := congrArg (· % 2 ^ k) h
      simpa [pow_succ, Nat.mod_mul_right_mod] using this
    have hb : v.testBit k = w.testBit k := by
      have hv := Nat.testBit_mod_two_pow v (k + 1) k
      have hw := Nat.testBit_mod_two_pow w (k + 1) k
      simp only [Nat.lt_succ_self, decide_true, Bool.true_and] at hv hw
      rw [← hv, ← hw, h]
    simp [bin, ih hk, hb]

/-- `bin` undoes `uint` (R11). -/
theorem bin_uint (s : Bits) : bin s.length (uint s) = s := by
  induction s with
  | nil => rfl
  | cons b s ih =>
    have hlt := uint_lt s
    rw [List.length_cons, bin, uint_cons]
    congr 1
    · have hd : (b.toNat * 2 ^ s.length + uint s) / 2 ^ s.length = b.toNat := by
        rw [Nat.add_comm, Nat.add_mul_div_right _ _ (by positivity), Nat.div_eq_of_lt hlt, Nat.zero_add]
      rw [Nat.testBit_eq_decide_div_mod_eq, hd]
      cases b <;> rfl
    · rw [bin_eq_of_mod (w := uint s) (by simp), ih]

theorem uint_injective {s t : Bits} (hl : s.length = t.length) (h : uint s = uint t) : s = t := by
  rw [← bin_uint s, ← bin_uint t, hl, h]

/-! ### Bytes -/

@[simp] theorem bitsOf_length (bs : List Byte) : (bitsOf bs).length = 8 * bs.length := by
  induction bs with
  | nil => rfl
  | cons b bs ih => simp [bitsOf, ih]; omega

theorem bitsOf_append (bs cs : List Byte) : bitsOf (bs ++ cs) = bitsOf bs ++ bitsOf cs := by
  induction bs with
  | nil => rfl
  | cons b bs ih => simp [bitsOf, ih]

theorem byteOf_bin (b : Byte) : byteOf (bin 8 b.toNat) = b := by
  unfold byteOf
  rw [uint_bin_of_lt b.isLt]
  simp

theorem bin_byteOf {s : Bits} (h : s.length = 8) : bin 8 (byteOf s).toNat = s := by
  unfold byteOf
  have hlt : uint s < 2 ^ 8 := h ▸ uint_lt s
  rw [BitVec.toNat_ofNat, Nat.mod_eq_of_lt hlt]
  exact h ▸ bin_uint s

/-- Fewer than 8 bits stay in the accumulator. -/
theorem emit_short {s : Bits} (h : s.length < 8) : emit s = ([], s) := by
  unfold emit
  split
  · simp at h; omega
  · rfl

/-- Eight bits and more: the first eight leave as a byte. -/
theorem emit_eight {s t : Bits} (h : s.length = 8) : emit (s ++ t) = (byteOf s :: (emit t).1, (emit t).2) := by
  match s, h with
  | [b7, b6, b5, b4, b3, b2, b1, b0], _ => simp [emit]

/-- The whole bytes leave and the rest stays: `emit` splits its input. -/
theorem emit_spec (s : Bits) :
    bitsOf (emit s).1 ++ (emit s).2 = s ∧ (emit s).2.length < 8 ∧ 8 * (emit s).1.length + (emit s).2.length = s.length := by
  induction hn : s.length using Nat.strong_induction_on generalizing s with
  | _ n ih =>
    subst hn
    by_cases h : s.length < 8
    · rw [emit_short h]
      simp [bitsOf, h]
    · obtain ⟨h1, h2, h3⟩ := ih (s.drop 8).length (by simp; omega) (s.drop 8) rfl
      have ht : (s.take 8).length = 8 := by simp; omega
      have hs : s.take 8 ++ s.drop 8 = s := List.take_append_drop 8 s
      have he := emit_eight (t := s.drop 8) ht
      rw [hs] at he
      rw [he]
      refine ⟨?_, h2, ?_⟩
      · simp only [bitsOf, List.append_assoc]
        rw [bin_byteOf ht, h1, hs]
      · simp only [List.length_cons, List.length_drop] at h3 ⊢
        omega

/-- `emit` of a string with more bits appended: first what was there, then the rest with what is new. -/
theorem emit_append (s t : Bits) :
    emit (s ++ t) = ((emit s).1 ++ (emit ((emit s).2 ++ t)).1, (emit ((emit s).2 ++ t)).2) := by
  induction hn : s.length using Nat.strong_induction_on generalizing s with
  | _ n ih =>
    subst hn
    by_cases h : s.length < 8
    · rw [emit_short h]
      simp
    · have ht : (s.take 8).length = 8 := by simp; omega
      have hs : s.take 8 ++ s.drop 8 = s := List.take_append_drop 8 s
      have he := emit_eight (t := s.drop 8) ht
      rw [hs] at he
      have hst : s ++ t = s.take 8 ++ (s.drop 8 ++ t) := by rw [← List.append_assoc, hs]
      rw [hst, emit_eight ht, ih (s.drop 8).length (by simp; omega) (s.drop 8) rfl, he]
      simp

/-- The accumulator view of R703: appending chunk by chunk emits what the whole string emits. -/
theorem accumulate_eq_emit (acc : Bits) (cs : List Bits) (h : acc.length < 8 ∨ cs ≠ []) :
    accumulate acc cs = emit (acc ++ cs.flatten) := by
  induction cs generalizing acc with
  | nil =>
    simp only [ne_eq, not_true_eq_false, or_false] at h
    simp [accumulate, emit_short h]
  | cons c cs ih =>
    have hs := (emit_spec (acc ++ c)).2.1
    rw [accumulate, ih _ (Or.inl hs)]
    simp only [List.flatten_cons]
    rw [← List.append_assoc, emit_append (acc ++ c) cs.flatten]

theorem bitsOf_bytesOf {s : Bits} (h : s.length % 8 = 0) : bitsOf (bytesOf s) = s := by
  obtain ⟨h1, h2, h3⟩ := emit_spec s
  have h0 : (emit s).2 = [] := List.eq_nil_of_length_eq_zero (by omega)
  rw [h0, List.append_nil] at h1
  exact h1

theorem bytesOf_length {s : Bits} (h : s.length % 8 = 0) : (bytesOf s).length = s.length / 8 := by
  obtain ⟨_, h2, h3⟩ := emit_spec s
  unfold bytesOf
  omega

theorem bytesOf_bitsOf (bs : List Byte) : bytesOf (bitsOf bs) = bs := by
  induction bs with
  | nil => rfl
  | cons b bs ih =>
    unfold bytesOf at *
    simp only [bitsOf]
    rw [emit_eight (bin_length 8 b.toNat), byteOf_bin, ih]

theorem padCount_spec (n : Nat) : (n + padCount n) % 8 = 0 ∧ padCount n < 8 := by
  unfold padCount
  omega

@[simp] theorem streamHead_length (n : Nat) : (streamHead n).length = padCount (n + 1) + 1 := by
  simp [streamHead]

theorem streamHead_aligned (n : Nat) : ((streamHead n).length + n) % 8 = 0 := by
  have := (padCount_spec (n + 1)).1
  rw [streamHead_length]
  omega

/-- With at least one chunk, pass 2 writes the packed stream of the concatenation (R702, R703, R208). -/
theorem packChunks_eq_pack {n : Nat} {cs : List Bits} (hn : cs.flatten.length = n) (h : cs ≠ []) :
    packChunks n cs = pack cs.flatten := by
  unfold packChunks pack bytesOf
  rw [accumulate_eq_emit _ _ (Or.inr h), hn]

theorem pack_length (s : Bits) : (pack s).length = packedLen s.length := by
  have h := streamHead_aligned s.length
  have hp := padCount_spec (s.length + 1)
  unfold pack packedLen ceilDiv
  rw [bytesOf_length (by simpa using h)]
  simp only [List.length_append, streamHead_length]
  omega

/-- The bits of a packed stream: padding, sentinel, payload (R208). -/
theorem bitsOf_pack (s : Bits) : bitsOf (pack s) = streamHead s.length ++ s := by
  unfold pack
  exact bitsOf_bytesOf (by simpa using streamHead_aligned s.length)

end Sys2Proof.Machine
end

