-- ==== Sys2Proof/Laws/Memory.lean ====
section
/-! SUPPORT. System memory: a read after a write, what a write leaves alone, and that every operation keeps the
canonical form. -/

namespace Sys2Proof.Machine

/-! ### Reads -/

/-- In a list in canonical form from `lo` on, an address below `lo` is not listed. -/
theorem read_below {lo a : Nat} : ∀ {m : Memory}, m.wfFrom lo = true → a < lo → m.read a = unlistedByte := by
  intro m
  induction m generalizing lo with
  | nil => intro _ _; rfl
  | cons c m ih =>
    obtain ⟨a', b'⟩ := c
    intro hm ha
    simp only [Memory.wfFrom, Bool.and_eq_true, decide_eq_true_eq] at hm
    have hne : a ≠ a' := by omega
    simp only [Memory.read, if_neg hne]
    exact ih hm.2 (by omega)

/-- A write leaves every other byte alone. -/
theorem read_write_ne {m : Memory} {a c : Nat} (b : Byte) (h : c ≠ a) : (m.write a b).read c = m.read c := by
  induction m with
  | nil =>
    by_cases hb : b = unlistedByte <;> simp [Memory.write, Memory.read, hb, h]
  | cons e m ih =>
    obtain ⟨a', b'⟩ := e
    by_cases h1 : a < a'
    · by_cases hb : b = unlistedByte <;> simp [Memory.write, Memory.read, h1, hb, h]
    · by_cases h2 : a = a'
      · subst h2
        by_cases hb : b = unlistedByte <;> simp [Memory.write, Memory.read, hb, h]
      · simp [Memory.write, Memory.read, h1, h2, ih]

/-- A read of the byte just written gives the value written. -/
theorem read_write_self {lo a : Nat} (b : Byte) :
    ∀ {m : Memory}, m.wfFrom lo = true → (m.write a b).read a = b := by
  intro m
  induction m generalizing lo with
  | nil =>
    intro _
    by_cases hb : b = unlistedByte
    · simp [Memory.write, Memory.read, hb]
    · simp [Memory.write, Memory.read, hb]
  | cons e m ih =>
    obtain ⟨a', b'⟩ := e
    intro hm
    simp only [Memory.wfFrom, Bool.and_eq_true, decide_eq_true_eq] at hm
    by_cases h1 : a < a'
    · by_cases hb : b = unlistedByte
      · have hne : a ≠ a' := by omega
        simp only [Memory.write, h1, hb, if_true, Memory.read, if_neg hne]
        exact read_below hm.2 (by omega)
      · simp [Memory.write, Memory.read, h1, hb]
    · by_cases h2 : a = a'
      · subst h2
        by_cases hb : b = unlistedByte
        · simp only [Memory.write, lt_self_iff_false, if_false, if_true, hb]
          exact read_below hm.2 (by omega)
        · simp [Memory.write, Memory.read, hb]
      · simp [Memory.write, Memory.read, h1, h2, ih hm.2]

/-- A byte sequence leaves every byte outside it alone. -/
theorem read_poke_outside {a c : Nat} : ∀ {bs : List Byte} {m : Memory},
    c < a ∨ a + bs.length ≤ c → (m.poke a bs).read c = m.read c := by
  intro bs
  induction bs generalizing a with
  | nil => intro m _; rfl
  | cons b bs ih =>
    intro m h
    simp only [List.length_cons] at h
    simp only [Memory.poke]
    rw [ih (by omega), read_write_ne b (by omega)]

/-- Free values leave every byte outside their range alone. -/
theorem read_scramble_outside {d a n c : Nat} {m : Memory} (h : c < a ∨ a + n ≤ c) :
    (m.scramble d a n).read c = m.read c := by
  induction n generalizing a m with
  | zero => rfl
  | succ n ih =>
    simp only [Memory.scramble]
    rw [ih (by omega), read_write_ne _ (by omega)]

@[simp] theorem peek_length (m : Memory) (a n : Nat) : (m.peek a n).length = n := by
  induction n generalizing a with
  | zero => rfl
  | succ n ih => simp [Memory.peek, ih]

/-- The bytes of a range depend on the reads inside it only. -/
theorem peek_congr {m m' : Memory} {a n : Nat} (h : ∀ c, a ≤ c → c < a + n → m.read c = m'.read c) :
    m.peek a n = m'.peek a n := by
  induction n generalizing a with
  | zero => rfl
  | succ n ih =>
    simp only [Memory.peek]
    rw [h a (by omega) (by omega), ih (fun c h1 h2 => h c (by omega) (by omega))]

theorem peek_add (m : Memory) (a n k : Nat) : m.peek a (n + k) = m.peek a n ++ m.peek (a + n) k := by
  induction n generalizing a with
  | zero => simp [Memory.peek]
  | succ n ih =>
    have h : n + 1 + k = (n + k) + 1 := by omega
    rw [h]
    simp only [Memory.peek, List.cons_append]
    rw [ih, show a + 1 + n = a + (n + 1) by omega]

/-! ### The canonical form -/

theorem wfFrom_weaken {lo lo' : Nat} {m : Memory} (h : m.wfFrom lo = true) (hl : lo' ≤ lo) :
    m.wfFrom lo' = true := by
  cases m with
  | nil => rfl
  | cons e m =>
    simp only [Memory.wfFrom, Bool.and_eq_true, decide_eq_true_eq] at h ⊢
    exact ⟨⟨⟨by omega, h.1.1.2⟩, h.1.2⟩, h.2⟩

/-- A write inside the address space keeps the canonical form. -/
theorem write_wfFrom {lo a : Nat} {b : Byte} : ∀ {m : Memory}, m.wfFrom lo = true → lo ≤ a →
    a < Config.addrSpace → (m.write a b).wfFrom lo = true := by
  intro m
  induction m generalizing lo with
  | nil =>
    intro _ h1 h2
    by_cases hb : b = unlistedByte <;> simp [Memory.write, Memory.wfFrom, hb, h1, h2]
  | cons e m ih =>
    obtain ⟨a', b'⟩ := e
    intro hm h1 h2
    have hm' := hm
    simp only [Memory.wfFrom, Bool.and_eq_true, decide_eq_true_eq] at hm
    by_cases hlt : a < a'
    · by_cases hb : b = unlistedByte
      · simpa [Memory.write, hlt, hb] using hm'
      · simp only [Memory.write, hlt, hb, if_true, if_false, Memory.wfFrom, Bool.and_eq_true,
          decide_eq_true_eq]
        exact ⟨⟨⟨h1, h2⟩, hb⟩, ⟨⟨by omega, hm.1.1.2⟩, hm.1.2⟩, hm.2⟩
    · by_cases heq : a = a'
      · subst heq
        by_cases hb : b = unlistedByte
        · simp only [Memory.write, lt_self_iff_false, if_false, if_true, hb]
          exact wfFrom_weaken hm.2 (by omega)
        · simp only [Memory.write, lt_self_iff_false, if_false, if_true, hb, Memory.wfFrom,
            Bool.and_eq_true, decide_eq_true_eq]
          exact ⟨⟨⟨h1, h2⟩, hb⟩, hm.2⟩
      · simp only [Memory.write, hlt, heq, if_false, Memory.wfFrom, Bool.and_eq_true, decide_eq_true_eq]
        exact ⟨⟨⟨hm.1.1.1, hm.1.1.2⟩, hm.1.2⟩, ih hm.2 (by omega) h2⟩

theorem write_wf {m : Memory} {a : Nat} {b : Byte} (h : m.wf = true) (ha : a < Config.addrSpace) :
    (m.write a b).wf = true := write_wfFrom h (Nat.zero_le a) ha

theorem poke_wf {a : Nat} : ∀ {bs : List Byte} {m : Memory}, m.wf = true → a + bs.length ≤ Config.addrSpace →
    (m.poke a bs).wf = true := by
  intro bs
  induction bs generalizing a with
  | nil => intro m h _; exact h
  | cons b bs ih =>
    intro m h hl
    simp only [List.length_cons] at hl
    exact ih (write_wf h (by omega)) (by omega)

theorem scramble_wf {d a n : Nat} {m : Memory} (h : m.wf = true) (hl : a + n ≤ Config.addrSpace) :
    (m.scramble d a n).wf = true := by
  induction n generalizing a m with
  | zero => exact h
  | succ n ih => exact ih (write_wf h (by omega)) (by omega)

/-- A window clipped to the address space ends inside it, when it begins inside. -/
theorem clipLen_fits {a n : Nat} (h : a ≤ Config.addrSpace) : a + clipLen a n ≤ Config.addrSpace := by
  unfold clipLen
  omega

/-- Free values in the latched DST window keep the canonical form (R163). -/
theorem scrambleDst_wf {s : State} (h : s.mem.wf = true) : s.scrambleDst.mem.wf = true := by
  refine scramble_wf h (clipLen_fits ?_)
  have := s.latch.dstAddr.isLt
  unfold Config.addrSpace
  omega

/-- The `mem` directives of a well-formed script keep the canonical form (R213). -/
theorem scriptMem_wf {sts : List Stmt} : ∀ {m : Memory}, m.wf = true → sts.all Stmt.wf = true →
    (scriptMem sts m).wf = true := by
  induction sts with
  | nil => intro m h _; exact h
  | cons st sts ih =>
    intro m h hs
    rw [List.all_cons, Bool.and_eq_true] at hs
    cases st with
    | mem a bs => exact ih (poke_wf h (of_decide_eq_true hs.1)) hs.2
    | _ => exact ih h hs.2

/-- The memory of the reset state is in canonical form. -/
theorem reset_mem_wf : State.reset.mem.wf = true := rfl

/-- What was written is what is read back (R161). -/
theorem peek_poke {a : Nat} : ∀ {bs : List Byte} {m : Memory}, m.wf = true → a + bs.length ≤ Config.addrSpace →
    (m.poke a bs).peek a bs.length = bs := by
  intro bs
  induction bs generalizing a with
  | nil => intro m _ _; rfl
  | cons b bs ih =>
    intro m h hl
    simp only [List.length_cons] at hl
    have hw : (m.write a b).wf = true := write_wf h (by omega)
    simp only [Memory.poke, List.length_cons, Memory.peek]
    rw [ih hw (by omega), read_poke_outside (by omega), read_write_self b h]

/-! ### The platform's permissions -/

theorem allOk_iff {p : Platform} {k : AccessKind} {a n : Nat} :
    allOk p k a n = true ↔ ∀ c, a ≤ c → c < a + n → memOk p k c = true := by
  induction n generalizing a with
  | zero => simp only [allOk, true_iff]; intro c h1 h2; omega
  | succ n ih =>
    simp only [allOk, Bool.and_eq_true, ih]
    constructor
    · intro h c h1 h2
      by_cases hc : c = a
      · exact hc ▸ h.1
      · exact h.2 c (by omega) (by omega)
    · intro h
      exact ⟨h a (by omega) (by omega), fun c h1 h2 => h c (by omega) (by omega)⟩

theorem okCount_le (p : Platform) (k : AccessKind) (a n : Nat) : okCount p k a n ≤ n := by
  induction n generalizing a with
  | zero => simp [okCount]
  | succ n ih =>
    have := ih (a + 1)
    by_cases h : memOk p k a = true <;> simp [okCount, h]
    omega

/-- When every access is accepted, all of them come before the first refused one. -/
theorem okCount_of_allOk {p : Platform} {k : AccessKind} {a n : Nat} (h : allOk p k a n = true) :
    okCount p k a n = n := by
  induction n generalizing a with
  | zero => rfl
  | succ n ih =>
    simp only [allOk, Bool.and_eq_true] at h
    simp [okCount, h.1, ih h.2]

/-- With every read accepted, the bytes read one by one are the whole window. -/
theorem readable_of_allOk {p : Platform} {m : Memory} {a n : Nat} (h : allOk p .read a n = true) :
    readable p m a n = m.peek a n := by
  unfold readable
  rw [okCount_of_allOk h]

/-- `MemRead` answers the bytes of the window, exactly when every access is accepted (R13). -/
theorem memRead_eq_some {p : Platform} {m : Memory} {a n : Nat} {bs : List Byte} :
    memRead p m a n = some bs ↔ allOk p .read a n = true ∧ bs = m.peek a n := by
  unfold memRead
  by_cases h : allOk p .read a n = true
  · simp [h, eq_comm]
  · simp [h]

end Sys2Proof.Machine
end

