-- ==== Sys2Proof/Laws/State.lean ====
section
/-! SUPPORT. What each named update of the state does to each field, one lemma per field. -/

namespace Sys2Proof.Machine

@[simp] theorem setStatus_ctrl (x : Status) (s : State) : (s.setStatus x).ctrl = s.ctrl := rfl
@[simp] theorem setStatus_status (x : Status) (s : State) : (s.setStatus x).status = x := rfl
@[simp] theorem setStatus_cmd (x : Status) (s : State) : (s.setStatus x).cmd = s.cmd := rfl
@[simp] theorem setStatus_srcAddr (x : Status) (s : State) : (s.setStatus x).srcAddr = s.srcAddr := rfl
@[simp] theorem setStatus_srcLen (x : Status) (s : State) : (s.setStatus x).srcLen = s.srcLen := rfl
@[simp] theorem setStatus_dstAddr (x : Status) (s : State) : (s.setStatus x).dstAddr = s.dstAddr := rfl
@[simp] theorem setStatus_dstCap (x : Status) (s : State) : (s.setStatus x).dstCap = s.dstCap := rfl
@[simp] theorem setStatus_resultLen (x : Status) (s : State) : (s.setStatus x).resultLen = s.resultLen := rfl
@[simp] theorem setStatus_origLen (x : Status) (s : State) : (s.setStatus x).origLen = s.origLen := rfl
@[simp] theorem setStatus_leafCount (x : Status) (s : State) : (s.setStatus x).leafCount = s.leafCount := rfl
@[simp] theorem setStatus_nodeCount (x : Status) (s : State) : (s.setStatus x).nodeCount = s.nodeCount := rfl
@[simp] theorem setStatus_root (x : Status) (s : State) : (s.setStatus x).root = s.root := rfl
@[simp] theorem setStatus_codeWidth (x : Status) (s : State) : (s.setStatus x).codeWidth = s.codeWidth := rfl
@[simp] theorem setStatus_maxCode (x : Status) (s : State) : (s.setStatus x).maxCode = s.maxCode := rfl
@[simp] theorem setStatus_dictSize (x : Status) (s : State) : (s.setStatus x).dictSize = s.dictSize := rfl
@[simp] theorem setStatus_codeCount (x : Status) (s : State) : (s.setStatus x).codeCount = s.codeCount := rfl
@[simp] theorem setStatus_freq (x : Status) (s : State) : (s.setStatus x).freq = s.freq := rfl
@[simp] theorem setStatus_codeLen (x : Status) (s : State) : (s.setStatus x).codeLen = s.codeLen := rfl
@[simp] theorem setStatus_codeBits (x : Status) (s : State) : (s.setStatus x).codeBits = s.codeBits := rfl
@[simp] theorem setStatus_nodes (x : Status) (s : State) : (s.setStatus x).nodes = s.nodes := rfl
@[simp] theorem setStatus_latch (x : Status) (s : State) : (s.setStatus x).latch = s.latch := rfl
@[simp] theorem setStatus_mem (x : Status) (s : State) : (s.setStatus x).mem = s.mem := rfl
@[simp] theorem setStatus_plat (x : Status) (s : State) : (s.setStatus x).plat = s.plat := rfl
@[simp] theorem setStatus_turns (x : Status) (s : State) : (s.setStatus x).turns = s.turns := rfl
@[simp] theorem setStatus_rdata (x : Status) (s : State) : (s.setStatus x).rdata = s.rdata := rfl
@[simp] theorem setStatus_claimsMet (x : Status) (s : State) : (s.setStatus x).claimsMet = s.claimsMet := rfl
@[simp] theorem setStatus_disturbed (x : Status) (s : State) : (s.setStatus x).disturbed = s.disturbed := rfl
@[simp] theorem setStatus_draw (x : Status) (s : State) : (s.setStatus x).draw = s.draw := rfl

@[simp] theorem complete_ctrl (x : Status) (s : State) : (s.complete x).ctrl = s.ctrl := rfl
@[simp] theorem complete_status (x : Status) (s : State) : (s.complete x).status = x := rfl
@[simp] theorem complete_cmd (x : Status) (s : State) : (s.complete x).cmd = s.cmd := rfl
@[simp] theorem complete_srcAddr (x : Status) (s : State) : (s.complete x).srcAddr = s.srcAddr := rfl
@[simp] theorem complete_srcLen (x : Status) (s : State) : (s.complete x).srcLen = s.srcLen := rfl
@[simp] theorem complete_dstAddr (x : Status) (s : State) : (s.complete x).dstAddr = s.dstAddr := rfl
@[simp] theorem complete_dstCap (x : Status) (s : State) : (s.complete x).dstCap = s.dstCap := rfl
@[simp] theorem complete_resultLen (x : Status) (s : State) : (s.complete x).resultLen = s.resultLen := rfl
@[simp] theorem complete_origLen (x : Status) (s : State) : (s.complete x).origLen = s.origLen := rfl
@[simp] theorem complete_leafCount (x : Status) (s : State) : (s.complete x).leafCount = s.leafCount := rfl
@[simp] theorem complete_nodeCount (x : Status) (s : State) : (s.complete x).nodeCount = s.nodeCount := rfl
@[simp] theorem complete_root (x : Status) (s : State) : (s.complete x).root = s.root := rfl
@[simp] theorem complete_codeWidth (x : Status) (s : State) : (s.complete x).codeWidth = s.codeWidth := rfl
@[simp] theorem complete_maxCode (x : Status) (s : State) : (s.complete x).maxCode = s.maxCode := rfl
@[simp] theorem complete_dictSize (x : Status) (s : State) : (s.complete x).dictSize = s.dictSize := rfl
@[simp] theorem complete_codeCount (x : Status) (s : State) : (s.complete x).codeCount = s.codeCount := rfl
@[simp] theorem complete_freq (x : Status) (s : State) : (s.complete x).freq = s.freq := rfl
@[simp] theorem complete_codeLen (x : Status) (s : State) : (s.complete x).codeLen = s.codeLen := rfl
@[simp] theorem complete_codeBits (x : Status) (s : State) : (s.complete x).codeBits = s.codeBits := rfl
@[simp] theorem complete_nodes (x : Status) (s : State) : (s.complete x).nodes = s.nodes := rfl
@[simp] theorem complete_latch (x : Status) (s : State) : (s.complete x).latch = s.latch := rfl
@[simp] theorem complete_mem (x : Status) (s : State) : (s.complete x).mem = s.mem := rfl
@[simp] theorem complete_plat (x : Status) (s : State) : (s.complete x).plat = s.plat := rfl
@[simp] theorem complete_turns (x : Status) (s : State) : (s.complete x).turns = s.turns := rfl
@[simp] theorem complete_rdata (x : Status) (s : State) : (s.complete x).rdata = s.rdata := rfl
@[simp] theorem complete_claimsMet (x : Status) (s : State) : (s.complete x).claimsMet = s.claimsMet := rfl
@[simp] theorem complete_disturbed (x : Status) (s : State) : (s.complete x).disturbed = false := rfl
@[simp] theorem complete_draw (x : Status) (s : State) : (s.complete x).draw = s.draw := rfl

@[simp] theorem setResultLen_ctrl (n : Nat) (s : State) : (s.setResultLen n).ctrl = s.ctrl := rfl
@[simp] theorem setResultLen_status (n : Nat) (s : State) : (s.setResultLen n).status = s.status := rfl
@[simp] theorem setResultLen_cmd (n : Nat) (s : State) : (s.setResultLen n).cmd = s.cmd := rfl
@[simp] theorem setResultLen_srcAddr (n : Nat) (s : State) : (s.setResultLen n).srcAddr = s.srcAddr := rfl
@[simp] theorem setResultLen_srcLen (n : Nat) (s : State) : (s.setResultLen n).srcLen = s.srcLen := rfl
@[simp] theorem setResultLen_dstAddr (n : Nat) (s : State) : (s.setResultLen n).dstAddr = s.dstAddr := rfl
@[simp] theorem setResultLen_dstCap (n : Nat) (s : State) : (s.setResultLen n).dstCap = s.dstCap := rfl
@[simp] theorem setResultLen_resultLen (n : Nat) (s : State) : (s.setResultLen n).resultLen = BitVec.ofNat 32 n := rfl
@[simp] theorem setResultLen_origLen (n : Nat) (s : State) : (s.setResultLen n).origLen = s.origLen := rfl
@[simp] theorem setResultLen_leafCount (n : Nat) (s : State) : (s.setResultLen n).leafCount = s.leafCount := rfl
@[simp] theorem setResultLen_nodeCount (n : Nat) (s : State) : (s.setResultLen n).nodeCount = s.nodeCount := rfl
@[simp] theorem setResultLen_root (n : Nat) (s : State) : (s.setResultLen n).root = s.root := rfl
@[simp] theorem setResultLen_codeWidth (n : Nat) (s : State) : (s.setResultLen n).codeWidth = s.codeWidth := rfl
@[simp] theorem setResultLen_maxCode (n : Nat) (s : State) : (s.setResultLen n).maxCode = s.maxCode := rfl
@[simp] theorem setResultLen_dictSize (n : Nat) (s : State) : (s.setResultLen n).dictSize = s.dictSize := rfl
@[simp] theorem setResultLen_codeCount (n : Nat) (s : State) : (s.setResultLen n).codeCount = s.codeCount := rfl
@[simp] theorem setResultLen_freq (n : Nat) (s : State) : (s.setResultLen n).freq = s.freq := rfl
@[simp] theorem setResultLen_codeLen (n : Nat) (s : State) : (s.setResultLen n).codeLen = s.codeLen := rfl
@[simp] theorem setResultLen_codeBits (n : Nat) (s : State) : (s.setResultLen n).codeBits = s.codeBits := rfl
@[simp] theorem setResultLen_nodes (n : Nat) (s : State) : (s.setResultLen n).nodes = s.nodes := rfl
@[simp] theorem setResultLen_latch (n : Nat) (s : State) : (s.setResultLen n).latch = s.latch := rfl
@[simp] theorem setResultLen_mem (n : Nat) (s : State) : (s.setResultLen n).mem = s.mem := rfl
@[simp] theorem setResultLen_plat (n : Nat) (s : State) : (s.setResultLen n).plat = s.plat := rfl
@[simp] theorem setResultLen_turns (n : Nat) (s : State) : (s.setResultLen n).turns = s.turns := rfl
@[simp] theorem setResultLen_rdata (n : Nat) (s : State) : (s.setResultLen n).rdata = s.rdata := rfl
@[simp] theorem setResultLen_claimsMet (n : Nat) (s : State) : (s.setResultLen n).claimsMet = s.claimsMet := rfl
@[simp] theorem setResultLen_disturbed (n : Nat) (s : State) : (s.setResultLen n).disturbed = s.disturbed := rfl
@[simp] theorem setResultLen_draw (n : Nat) (s : State) : (s.setResultLen n).draw = s.draw := rfl

@[simp] theorem setOrigLen_ctrl (n : Nat) (s : State) : (s.setOrigLen n).ctrl = s.ctrl := rfl
@[simp] theorem setOrigLen_status (n : Nat) (s : State) : (s.setOrigLen n).status = s.status := rfl
@[simp] theorem setOrigLen_cmd (n : Nat) (s : State) : (s.setOrigLen n).cmd = s.cmd := rfl
@[simp] theorem setOrigLen_srcAddr (n : Nat) (s : State) : (s.setOrigLen n).srcAddr = s.srcAddr := rfl
@[simp] theorem setOrigLen_srcLen (n : Nat) (s : State) : (s.setOrigLen n).srcLen = s.srcLen := rfl
@[simp] theorem setOrigLen_dstAddr (n : Nat) (s : State) : (s.setOrigLen n).dstAddr = s.dstAddr := rfl
@[simp] theorem setOrigLen_dstCap (n : Nat) (s : State) : (s.setOrigLen n).dstCap = s.dstCap := rfl
@[simp] theorem setOrigLen_resultLen (n : Nat) (s : State) : (s.setOrigLen n).resultLen = s.resultLen := rfl
@[simp] theorem setOrigLen_origLen (n : Nat) (s : State) : (s.setOrigLen n).origLen = BitVec.ofNat 32 n := rfl
@[simp] theorem setOrigLen_leafCount (n : Nat) (s : State) : (s.setOrigLen n).leafCount = s.leafCount := rfl
@[simp] theorem setOrigLen_nodeCount (n : Nat) (s : State) : (s.setOrigLen n).nodeCount = s.nodeCount := rfl
@[simp] theorem setOrigLen_root (n : Nat) (s : State) : (s.setOrigLen n).root = s.root := rfl
@[simp] theorem setOrigLen_codeWidth (n : Nat) (s : State) : (s.setOrigLen n).codeWidth = s.codeWidth := rfl
@[simp] theorem setOrigLen_maxCode (n : Nat) (s : State) : (s.setOrigLen n).maxCode = s.maxCode := rfl
@[simp] theorem setOrigLen_dictSize (n : Nat) (s : State) : (s.setOrigLen n).dictSize = s.dictSize := rfl
@[simp] theorem setOrigLen_codeCount (n : Nat) (s : State) : (s.setOrigLen n).codeCount = s.codeCount := rfl
@[simp] theorem setOrigLen_freq (n : Nat) (s : State) : (s.setOrigLen n).freq = s.freq := rfl
@[simp] theorem setOrigLen_codeLen (n : Nat) (s : State) : (s.setOrigLen n).codeLen = s.codeLen := rfl
@[simp] theorem setOrigLen_codeBits (n : Nat) (s : State) : (s.setOrigLen n).codeBits = s.codeBits := rfl
@[simp] theorem setOrigLen_nodes (n : Nat) (s : State) : (s.setOrigLen n).nodes = s.nodes := rfl
@[simp] theorem setOrigLen_latch (n : Nat) (s : State) : (s.setOrigLen n).latch = s.latch := rfl
@[simp] theorem setOrigLen_mem (n : Nat) (s : State) : (s.setOrigLen n).mem = s.mem := rfl
@[simp] theorem setOrigLen_plat (n : Nat) (s : State) : (s.setOrigLen n).plat = s.plat := rfl
@[simp] theorem setOrigLen_turns (n : Nat) (s : State) : (s.setOrigLen n).turns = s.turns := rfl
@[simp] theorem setOrigLen_rdata (n : Nat) (s : State) : (s.setOrigLen n).rdata = s.rdata := rfl
@[simp] theorem setOrigLen_claimsMet (n : Nat) (s : State) : (s.setOrigLen n).claimsMet = s.claimsMet := rfl
@[simp] theorem setOrigLen_disturbed (n : Nat) (s : State) : (s.setOrigLen n).disturbed = s.disturbed := rfl
@[simp] theorem setOrigLen_draw (n : Nat) (s : State) : (s.setOrigLen n).draw = s.draw := rfl

@[simp] theorem setFreq_ctrl (f : Vector Word 256) (s : State) : (s.setFreq f).ctrl = s.ctrl := rfl
@[simp] theorem setFreq_status (f : Vector Word 256) (s : State) : (s.setFreq f).status = s.status := rfl
@[simp] theorem setFreq_cmd (f : Vector Word 256) (s : State) : (s.setFreq f).cmd = s.cmd := rfl
@[simp] theorem setFreq_srcAddr (f : Vector Word 256) (s : State) : (s.setFreq f).srcAddr = s.srcAddr := rfl
@[simp] theorem setFreq_srcLen (f : Vector Word 256) (s : State) : (s.setFreq f).srcLen = s.srcLen := rfl
@[simp] theorem setFreq_dstAddr (f : Vector Word 256) (s : State) : (s.setFreq f).dstAddr = s.dstAddr := rfl
@[simp] theorem setFreq_dstCap (f : Vector Word 256) (s : State) : (s.setFreq f).dstCap = s.dstCap := rfl
@[simp] theorem setFreq_resultLen (f : Vector Word 256) (s : State) : (s.setFreq f).resultLen = s.resultLen := rfl
@[simp] theorem setFreq_origLen (f : Vector Word 256) (s : State) : (s.setFreq f).origLen = s.origLen := rfl
@[simp] theorem setFreq_leafCount (f : Vector Word 256) (s : State) : (s.setFreq f).leafCount = s.leafCount := rfl
@[simp] theorem setFreq_nodeCount (f : Vector Word 256) (s : State) : (s.setFreq f).nodeCount = s.nodeCount := rfl
@[simp] theorem setFreq_root (f : Vector Word 256) (s : State) : (s.setFreq f).root = s.root := rfl
@[simp] theorem setFreq_codeWidth (f : Vector Word 256) (s : State) : (s.setFreq f).codeWidth = s.codeWidth := rfl
@[simp] theorem setFreq_maxCode (f : Vector Word 256) (s : State) : (s.setFreq f).maxCode = s.maxCode := rfl
@[simp] theorem setFreq_dictSize (f : Vector Word 256) (s : State) : (s.setFreq f).dictSize = s.dictSize := rfl
@[simp] theorem setFreq_codeCount (f : Vector Word 256) (s : State) : (s.setFreq f).codeCount = s.codeCount := rfl
@[simp] theorem setFreq_freq (f : Vector Word 256) (s : State) : (s.setFreq f).freq = f := rfl
@[simp] theorem setFreq_codeLen (f : Vector Word 256) (s : State) : (s.setFreq f).codeLen = s.codeLen := rfl
@[simp] theorem setFreq_codeBits (f : Vector Word 256) (s : State) : (s.setFreq f).codeBits = s.codeBits := rfl
@[simp] theorem setFreq_nodes (f : Vector Word 256) (s : State) : (s.setFreq f).nodes = s.nodes := rfl
@[simp] theorem setFreq_latch (f : Vector Word 256) (s : State) : (s.setFreq f).latch = s.latch := rfl
@[simp] theorem setFreq_mem (f : Vector Word 256) (s : State) : (s.setFreq f).mem = s.mem := rfl
@[simp] theorem setFreq_plat (f : Vector Word 256) (s : State) : (s.setFreq f).plat = s.plat := rfl
@[simp] theorem setFreq_turns (f : Vector Word 256) (s : State) : (s.setFreq f).turns = s.turns := rfl
@[simp] theorem setFreq_rdata (f : Vector Word 256) (s : State) : (s.setFreq f).rdata = s.rdata := rfl
@[simp] theorem setFreq_claimsMet (f : Vector Word 256) (s : State) : (s.setFreq f).claimsMet = s.claimsMet := rfl
@[simp] theorem setFreq_disturbed (f : Vector Word 256) (s : State) : (s.setFreq f).disturbed = s.disturbed := rfl
@[simp] theorem setFreq_draw (f : Vector Word 256) (s : State) : (s.setFreq f).draw = s.draw := rfl

@[simp] theorem setNodes_ctrl (ns : Nodes) (s : State) : (s.setNodes ns).ctrl = s.ctrl := rfl
@[simp] theorem setNodes_status (ns : Nodes) (s : State) :
    (s.setNodes ns).status = { s.status with treeValid := false, codesValid := false } := rfl
@[simp] theorem setNodes_cmd (ns : Nodes) (s : State) : (s.setNodes ns).cmd = s.cmd := rfl
@[simp] theorem setNodes_srcAddr (ns : Nodes) (s : State) : (s.setNodes ns).srcAddr = s.srcAddr := rfl
@[simp] theorem setNodes_srcLen (ns : Nodes) (s : State) : (s.setNodes ns).srcLen = s.srcLen := rfl
@[simp] theorem setNodes_dstAddr (ns : Nodes) (s : State) : (s.setNodes ns).dstAddr = s.dstAddr := rfl
@[simp] theorem setNodes_dstCap (ns : Nodes) (s : State) : (s.setNodes ns).dstCap = s.dstCap := rfl
@[simp] theorem setNodes_resultLen (ns : Nodes) (s : State) : (s.setNodes ns).resultLen = s.resultLen := rfl
@[simp] theorem setNodes_origLen (ns : Nodes) (s : State) : (s.setNodes ns).origLen = s.origLen := rfl
@[simp] theorem setNodes_leafCount (ns : Nodes) (s : State) : (s.setNodes ns).leafCount = s.leafCount := rfl
@[simp] theorem setNodes_nodeCount (ns : Nodes) (s : State) : (s.setNodes ns).nodeCount = s.nodeCount := rfl
@[simp] theorem setNodes_root (ns : Nodes) (s : State) : (s.setNodes ns).root = s.root := rfl
@[simp] theorem setNodes_codeWidth (ns : Nodes) (s : State) : (s.setNodes ns).codeWidth = s.codeWidth := rfl
@[simp] theorem setNodes_maxCode (ns : Nodes) (s : State) : (s.setNodes ns).maxCode = s.maxCode := rfl
@[simp] theorem setNodes_dictSize (ns : Nodes) (s : State) : (s.setNodes ns).dictSize = s.dictSize := rfl
@[simp] theorem setNodes_codeCount (ns : Nodes) (s : State) : (s.setNodes ns).codeCount = s.codeCount := rfl
@[simp] theorem setNodes_freq (ns : Nodes) (s : State) : (s.setNodes ns).freq = s.freq := rfl
@[simp] theorem setNodes_codeLen (ns : Nodes) (s : State) : (s.setNodes ns).codeLen = s.codeLen := rfl
@[simp] theorem setNodes_codeBits (ns : Nodes) (s : State) : (s.setNodes ns).codeBits = s.codeBits := rfl
@[simp] theorem setNodes_nodes (ns : Nodes) (s : State) : (s.setNodes ns).nodes = ns := rfl
@[simp] theorem setNodes_latch (ns : Nodes) (s : State) : (s.setNodes ns).latch = s.latch := rfl
@[simp] theorem setNodes_mem (ns : Nodes) (s : State) : (s.setNodes ns).mem = s.mem := rfl
@[simp] theorem setNodes_plat (ns : Nodes) (s : State) : (s.setNodes ns).plat = s.plat := rfl
@[simp] theorem setNodes_turns (ns : Nodes) (s : State) : (s.setNodes ns).turns = s.turns := rfl
@[simp] theorem setNodes_rdata (ns : Nodes) (s : State) : (s.setNodes ns).rdata = s.rdata := rfl
@[simp] theorem setNodes_claimsMet (ns : Nodes) (s : State) : (s.setNodes ns).claimsMet = s.claimsMet := rfl
@[simp] theorem setNodes_disturbed (ns : Nodes) (s : State) : (s.setNodes ns).disturbed = s.disturbed := rfl
@[simp] theorem setNodes_draw (ns : Nodes) (s : State) : (s.setNodes ns).draw = s.draw := rfl

@[simp] theorem setTree_ctrl (ns : Nodes) (r l : Nat) (s : State) : (s.setTree ns r l).ctrl = s.ctrl := rfl
@[simp] theorem setTree_status (ns : Nodes) (r l : Nat) (s : State) :
    (s.setTree ns r l).status = { s.status with treeValid := true, codesValid := false } := rfl
@[simp] theorem setTree_cmd (ns : Nodes) (r l : Nat) (s : State) : (s.setTree ns r l).cmd = s.cmd := rfl
@[simp] theorem setTree_srcAddr (ns : Nodes) (r l : Nat) (s : State) : (s.setTree ns r l).srcAddr = s.srcAddr := rfl
@[simp] theorem setTree_srcLen (ns : Nodes) (r l : Nat) (s : State) : (s.setTree ns r l).srcLen = s.srcLen := rfl
@[simp] theorem setTree_dstAddr (ns : Nodes) (r l : Nat) (s : State) : (s.setTree ns r l).dstAddr = s.dstAddr := rfl
@[simp] theorem setTree_dstCap (ns : Nodes) (r l : Nat) (s : State) : (s.setTree ns r l).dstCap = s.dstCap := rfl
@[simp] theorem setTree_resultLen (ns : Nodes) (r l : Nat) (s : State) : (s.setTree ns r l).resultLen = s.resultLen := rfl
@[simp] theorem setTree_origLen (ns : Nodes) (r l : Nat) (s : State) : (s.setTree ns r l).origLen = s.origLen := rfl
@[simp] theorem setTree_leafCount (ns : Nodes) (r l : Nat) (s : State) : (s.setTree ns r l).leafCount = BitVec.ofNat 9 l := rfl
@[simp] theorem setTree_nodeCount (ns : Nodes) (r l : Nat) (s : State) :
    (s.setTree ns r l).nodeCount = BitVec.ofNat 10 (2 * l - 1) := rfl
@[simp] theorem setTree_root (ns : Nodes) (r l : Nat) (s : State) : (s.setTree ns r l).root = BitVec.ofNat 9 r := rfl
@[simp] theorem setTree_codeWidth (ns : Nodes) (r l : Nat) (s : State) : (s.setTree ns r l).codeWidth = s.codeWidth := rfl
@[simp] theorem setTree_maxCode (ns : Nodes) (r l : Nat) (s : State) : (s.setTree ns r l).maxCode = s.maxCode := rfl
@[simp] theorem setTree_dictSize (ns : Nodes) (r l : Nat) (s : State) : (s.setTree ns r l).dictSize = s.dictSize := rfl
@[simp] theorem setTree_codeCount (ns : Nodes) (r l : Nat) (s : State) : (s.setTree ns r l).codeCount = s.codeCount := rfl
@[simp] theorem setTree_freq (ns : Nodes) (r l : Nat) (s : State) : (s.setTree ns r l).freq = s.freq := rfl
@[simp] theorem setTree_codeLen (ns : Nodes) (r l : Nat) (s : State) : (s.setTree ns r l).codeLen = s.codeLen := rfl
@[simp] theorem setTree_codeBits (ns : Nodes) (r l : Nat) (s : State) : (s.setTree ns r l).codeBits = s.codeBits := rfl
@[simp] theorem setTree_nodes (ns : Nodes) (r l : Nat) (s : State) : (s.setTree ns r l).nodes = ns := rfl
@[simp] theorem setTree_latch (ns : Nodes) (r l : Nat) (s : State) : (s.setTree ns r l).latch = s.latch := rfl
@[simp] theorem setTree_mem (ns : Nodes) (r l : Nat) (s : State) : (s.setTree ns r l).mem = s.mem := rfl
@[simp] theorem setTree_plat (ns : Nodes) (r l : Nat) (s : State) : (s.setTree ns r l).plat = s.plat := rfl
@[simp] theorem setTree_turns (ns : Nodes) (r l : Nat) (s : State) : (s.setTree ns r l).turns = s.turns := rfl
@[simp] theorem setTree_rdata (ns : Nodes) (r l : Nat) (s : State) : (s.setTree ns r l).rdata = s.rdata := rfl
@[simp] theorem setTree_claimsMet (ns : Nodes) (r l : Nat) (s : State) : (s.setTree ns r l).claimsMet = s.claimsMet := rfl
@[simp] theorem setTree_disturbed (ns : Nodes) (r l : Nat) (s : State) : (s.setTree ns r l).disturbed = s.disturbed := rfl
@[simp] theorem setTree_draw (ns : Nodes) (r l : Nat) (s : State) : (s.setTree ns r l).draw = s.draw := rfl

@[simp] theorem setCodes_ctrl (len : Vector Byte 256) (bits : Vector (BitVec 256) 256) (s : State) : (s.setCodes len bits).ctrl = s.ctrl := rfl
@[simp] theorem setCodes_status (len : Vector Byte 256) (bits : Vector (BitVec 256) 256) (s : State) :
    (s.setCodes len bits).status = { s.status with codesValid := true } := rfl
@[simp] theorem setCodes_cmd (len : Vector Byte 256) (bits : Vector (BitVec 256) 256) (s : State) : (s.setCodes len bits).cmd = s.cmd := rfl
@[simp] theorem setCodes_srcAddr (len : Vector Byte 256) (bits : Vector (BitVec 256) 256) (s : State) : (s.setCodes len bits).srcAddr = s.srcAddr := rfl
@[simp] theorem setCodes_srcLen (len : Vector Byte 256) (bits : Vector (BitVec 256) 256) (s : State) : (s.setCodes len bits).srcLen = s.srcLen := rfl
@[simp] theorem setCodes_dstAddr (len : Vector Byte 256) (bits : Vector (BitVec 256) 256) (s : State) : (s.setCodes len bits).dstAddr = s.dstAddr := rfl
@[simp] theorem setCodes_dstCap (len : Vector Byte 256) (bits : Vector (BitVec 256) 256) (s : State) : (s.setCodes len bits).dstCap = s.dstCap := rfl
@[simp] theorem setCodes_resultLen (len : Vector Byte 256) (bits : Vector (BitVec 256) 256) (s : State) : (s.setCodes len bits).resultLen = s.resultLen := rfl
@[simp] theorem setCodes_origLen (len : Vector Byte 256) (bits : Vector (BitVec 256) 256) (s : State) : (s.setCodes len bits).origLen = s.origLen := rfl
@[simp] theorem setCodes_leafCount (len : Vector Byte 256) (bits : Vector (BitVec 256) 256) (s : State) : (s.setCodes len bits).leafCount = s.leafCount := rfl
@[simp] theorem setCodes_nodeCount (len : Vector Byte 256) (bits : Vector (BitVec 256) 256) (s : State) : (s.setCodes len bits).nodeCount = s.nodeCount := rfl
@[simp] theorem setCodes_root (len : Vector Byte 256) (bits : Vector (BitVec 256) 256) (s : State) : (s.setCodes len bits).root = s.root := rfl
@[simp] theorem setCodes_codeWidth (len : Vector Byte 256) (bits : Vector (BitVec 256) 256) (s : State) : (s.setCodes len bits).codeWidth = s.codeWidth := rfl
@[simp] theorem setCodes_maxCode (len : Vector Byte 256) (bits : Vector (BitVec 256) 256) (s : State) : (s.setCodes len bits).maxCode = s.maxCode := rfl
@[simp] theorem setCodes_dictSize (len : Vector Byte 256) (bits : Vector (BitVec 256) 256) (s : State) : (s.setCodes len bits).dictSize = s.dictSize := rfl
@[simp] theorem setCodes_codeCount (len : Vector Byte 256) (bits : Vector (BitVec 256) 256) (s : State) : (s.setCodes len bits).codeCount = s.codeCount := rfl
@[simp] theorem setCodes_freq (len : Vector Byte 256) (bits : Vector (BitVec 256) 256) (s : State) : (s.setCodes len bits).freq = s.freq := rfl
@[simp] theorem setCodes_codeLen (len : Vector Byte 256) (bits : Vector (BitVec 256) 256) (s : State) : (s.setCodes len bits).codeLen = len := rfl
@[simp] theorem setCodes_codeBits (len : Vector Byte 256) (bits : Vector (BitVec 256) 256) (s : State) : (s.setCodes len bits).codeBits = bits := rfl
@[simp] theorem setCodes_nodes (len : Vector Byte 256) (bits : Vector (BitVec 256) 256) (s : State) : (s.setCodes len bits).nodes = s.nodes := rfl
@[simp] theorem setCodes_latch (len : Vector Byte 256) (bits : Vector (BitVec 256) 256) (s : State) : (s.setCodes len bits).latch = s.latch := rfl
@[simp] theorem setCodes_mem (len : Vector Byte 256) (bits : Vector (BitVec 256) 256) (s : State) : (s.setCodes len bits).mem = s.mem := rfl
@[simp] theorem setCodes_plat (len : Vector Byte 256) (bits : Vector (BitVec 256) 256) (s : State) : (s.setCodes len bits).plat = s.plat := rfl
@[simp] theorem setCodes_turns (len : Vector Byte 256) (bits : Vector (BitVec 256) 256) (s : State) : (s.setCodes len bits).turns = s.turns := rfl
@[simp] theorem setCodes_rdata (len : Vector Byte 256) (bits : Vector (BitVec 256) 256) (s : State) : (s.setCodes len bits).rdata = s.rdata := rfl
@[simp] theorem setCodes_claimsMet (len : Vector Byte 256) (bits : Vector (BitVec 256) 256) (s : State) : (s.setCodes len bits).claimsMet = s.claimsMet := rfl
@[simp] theorem setCodes_disturbed (len : Vector Byte 256) (bits : Vector (BitVec 256) 256) (s : State) : (s.setCodes len bits).disturbed = s.disturbed := rfl
@[simp] theorem setCodes_draw (len : Vector Byte 256) (bits : Vector (BitVec 256) 256) (s : State) : (s.setCodes len bits).draw = s.draw := rfl

@[simp] theorem setLzw_ctrl (w mx k n : Nat) (s : State) : (s.setLzw w mx k n).ctrl = s.ctrl := rfl
@[simp] theorem setLzw_status (w mx k n : Nat) (s : State) : (s.setLzw w mx k n).status = s.status := rfl
@[simp] theorem setLzw_cmd (w mx k n : Nat) (s : State) : (s.setLzw w mx k n).cmd = s.cmd := rfl
@[simp] theorem setLzw_srcAddr (w mx k n : Nat) (s : State) : (s.setLzw w mx k n).srcAddr = s.srcAddr := rfl
@[simp] theorem setLzw_srcLen (w mx k n : Nat) (s : State) : (s.setLzw w mx k n).srcLen = s.srcLen := rfl
@[simp] theorem setLzw_dstAddr (w mx k n : Nat) (s : State) : (s.setLzw w mx k n).dstAddr = s.dstAddr := rfl
@[simp] theorem setLzw_dstCap (w mx k n : Nat) (s : State) : (s.setLzw w mx k n).dstCap = s.dstCap := rfl
@[simp] theorem setLzw_resultLen (w mx k n : Nat) (s : State) : (s.setLzw w mx k n).resultLen = s.resultLen := rfl
@[simp] theorem setLzw_origLen (w mx k n : Nat) (s : State) : (s.setLzw w mx k n).origLen = s.origLen := rfl
@[simp] theorem setLzw_leafCount (w mx k n : Nat) (s : State) : (s.setLzw w mx k n).leafCount = s.leafCount := rfl
@[simp] theorem setLzw_nodeCount (w mx k n : Nat) (s : State) : (s.setLzw w mx k n).nodeCount = s.nodeCount := rfl
@[simp] theorem setLzw_root (w mx k n : Nat) (s : State) : (s.setLzw w mx k n).root = s.root := rfl
@[simp] theorem setLzw_codeWidth (w mx k n : Nat) (s : State) : (s.setLzw w mx k n).codeWidth = BitVec.ofNat 5 w := rfl
@[simp] theorem setLzw_maxCode (w mx k n : Nat) (s : State) : (s.setLzw w mx k n).maxCode = BitVec.ofNat 32 mx := rfl
@[simp] theorem setLzw_dictSize (w mx k n : Nat) (s : State) : (s.setLzw w mx k n).dictSize = BitVec.ofNat 32 n := rfl
@[simp] theorem setLzw_codeCount (w mx k n : Nat) (s : State) : (s.setLzw w mx k n).codeCount = BitVec.ofNat 32 k := rfl
@[simp] theorem setLzw_freq (w mx k n : Nat) (s : State) : (s.setLzw w mx k n).freq = s.freq := rfl
@[simp] theorem setLzw_codeLen (w mx k n : Nat) (s : State) : (s.setLzw w mx k n).codeLen = s.codeLen := rfl
@[simp] theorem setLzw_codeBits (w mx k n : Nat) (s : State) : (s.setLzw w mx k n).codeBits = s.codeBits := rfl
@[simp] theorem setLzw_nodes (w mx k n : Nat) (s : State) : (s.setLzw w mx k n).nodes = s.nodes := rfl
@[simp] theorem setLzw_latch (w mx k n : Nat) (s : State) : (s.setLzw w mx k n).latch = s.latch := rfl
@[simp] theorem setLzw_mem (w mx k n : Nat) (s : State) : (s.setLzw w mx k n).mem = s.mem := rfl
@[simp] theorem setLzw_plat (w mx k n : Nat) (s : State) : (s.setLzw w mx k n).plat = s.plat := rfl
@[simp] theorem setLzw_turns (w mx k n : Nat) (s : State) : (s.setLzw w mx k n).turns = s.turns := rfl
@[simp] theorem setLzw_rdata (w mx k n : Nat) (s : State) : (s.setLzw w mx k n).rdata = s.rdata := rfl
@[simp] theorem setLzw_claimsMet (w mx k n : Nat) (s : State) : (s.setLzw w mx k n).claimsMet = s.claimsMet := rfl
@[simp] theorem setLzw_disturbed (w mx k n : Nat) (s : State) : (s.setLzw w mx k n).disturbed = s.disturbed := rfl
@[simp] theorem setLzw_draw (w mx k n : Nat) (s : State) : (s.setLzw w mx k n).draw = s.draw := rfl

@[simp] theorem setMem_ctrl (m : Memory) (s : State) : (s.setMem m).ctrl = s.ctrl := rfl
@[simp] theorem setMem_status (m : Memory) (s : State) : (s.setMem m).status = s.status := rfl
@[simp] theorem setMem_cmd (m : Memory) (s : State) : (s.setMem m).cmd = s.cmd := rfl
@[simp] theorem setMem_srcAddr (m : Memory) (s : State) : (s.setMem m).srcAddr = s.srcAddr := rfl
@[simp] theorem setMem_srcLen (m : Memory) (s : State) : (s.setMem m).srcLen = s.srcLen := rfl
@[simp] theorem setMem_dstAddr (m : Memory) (s : State) : (s.setMem m).dstAddr = s.dstAddr := rfl
@[simp] theorem setMem_dstCap (m : Memory) (s : State) : (s.setMem m).dstCap = s.dstCap := rfl
@[simp] theorem setMem_resultLen (m : Memory) (s : State) : (s.setMem m).resultLen = s.resultLen := rfl
@[simp] theorem setMem_origLen (m : Memory) (s : State) : (s.setMem m).origLen = s.origLen := rfl
@[simp] theorem setMem_leafCount (m : Memory) (s : State) : (s.setMem m).leafCount = s.leafCount := rfl
@[simp] theorem setMem_nodeCount (m : Memory) (s : State) : (s.setMem m).nodeCount = s.nodeCount := rfl
@[simp] theorem setMem_root (m : Memory) (s : State) : (s.setMem m).root = s.root := rfl
@[simp] theorem setMem_codeWidth (m : Memory) (s : State) : (s.setMem m).codeWidth = s.codeWidth := rfl
@[simp] theorem setMem_maxCode (m : Memory) (s : State) : (s.setMem m).maxCode = s.maxCode := rfl
@[simp] theorem setMem_dictSize (m : Memory) (s : State) : (s.setMem m).dictSize = s.dictSize := rfl
@[simp] theorem setMem_codeCount (m : Memory) (s : State) : (s.setMem m).codeCount = s.codeCount := rfl
@[simp] theorem setMem_freq (m : Memory) (s : State) : (s.setMem m).freq = s.freq := rfl
@[simp] theorem setMem_codeLen (m : Memory) (s : State) : (s.setMem m).codeLen = s.codeLen := rfl
@[simp] theorem setMem_codeBits (m : Memory) (s : State) : (s.setMem m).codeBits = s.codeBits := rfl
@[simp] theorem setMem_nodes (m : Memory) (s : State) : (s.setMem m).nodes = s.nodes := rfl
@[simp] theorem setMem_latch (m : Memory) (s : State) : (s.setMem m).latch = s.latch := rfl
@[simp] theorem setMem_mem (m : Memory) (s : State) : (s.setMem m).mem = m := rfl
@[simp] theorem setMem_plat (m : Memory) (s : State) : (s.setMem m).plat = s.plat := rfl
@[simp] theorem setMem_turns (m : Memory) (s : State) : (s.setMem m).turns = s.turns := rfl
@[simp] theorem setMem_rdata (m : Memory) (s : State) : (s.setMem m).rdata = s.rdata := rfl
@[simp] theorem setMem_claimsMet (m : Memory) (s : State) : (s.setMem m).claimsMet = s.claimsMet := rfl
@[simp] theorem setMem_disturbed (m : Memory) (s : State) : (s.setMem m).disturbed = s.disturbed := rfl
@[simp] theorem setMem_draw (m : Memory) (s : State) : (s.setMem m).draw = s.draw := rfl

@[simp] theorem scrambleDst_ctrl (s : State) : s.scrambleDst.ctrl = s.ctrl := rfl
@[simp] theorem scrambleDst_status (s : State) : s.scrambleDst.status = s.status := rfl
@[simp] theorem scrambleDst_cmd (s : State) : s.scrambleDst.cmd = s.cmd := rfl
@[simp] theorem scrambleDst_srcAddr (s : State) : s.scrambleDst.srcAddr = s.srcAddr := rfl
@[simp] theorem scrambleDst_srcLen (s : State) : s.scrambleDst.srcLen = s.srcLen := rfl
@[simp] theorem scrambleDst_dstAddr (s : State) : s.scrambleDst.dstAddr = s.dstAddr := rfl
@[simp] theorem scrambleDst_dstCap (s : State) : s.scrambleDst.dstCap = s.dstCap := rfl
@[simp] theorem scrambleDst_resultLen (s : State) : s.scrambleDst.resultLen = s.resultLen := rfl
@[simp] theorem scrambleDst_origLen (s : State) : s.scrambleDst.origLen = s.origLen := rfl
@[simp] theorem scrambleDst_leafCount (s : State) : s.scrambleDst.leafCount = s.leafCount := rfl
@[simp] theorem scrambleDst_nodeCount (s : State) : s.scrambleDst.nodeCount = s.nodeCount := rfl
@[simp] theorem scrambleDst_root (s : State) : s.scrambleDst.root = s.root := rfl
@[simp] theorem scrambleDst_codeWidth (s : State) : s.scrambleDst.codeWidth = s.codeWidth := rfl
@[simp] theorem scrambleDst_maxCode (s : State) : s.scrambleDst.maxCode = s.maxCode := rfl
@[simp] theorem scrambleDst_dictSize (s : State) : s.scrambleDst.dictSize = s.dictSize := rfl
@[simp] theorem scrambleDst_codeCount (s : State) : s.scrambleDst.codeCount = s.codeCount := rfl
@[simp] theorem scrambleDst_freq (s : State) : s.scrambleDst.freq = s.freq := rfl
@[simp] theorem scrambleDst_codeLen (s : State) : s.scrambleDst.codeLen = s.codeLen := rfl
@[simp] theorem scrambleDst_codeBits (s : State) : s.scrambleDst.codeBits = s.codeBits := rfl
@[simp] theorem scrambleDst_nodes (s : State) : s.scrambleDst.nodes = s.nodes := rfl
@[simp] theorem scrambleDst_latch (s : State) : s.scrambleDst.latch = s.latch := rfl
@[simp] theorem scrambleDst_mem (s : State) :
    s.scrambleDst.mem = s.mem.scramble s.draw s.latch.dstAddr.toNat
      (clipLen s.latch.dstAddr.toNat s.latch.dstCap.toNat) := rfl
@[simp] theorem scrambleDst_plat (s : State) : s.scrambleDst.plat = s.plat := rfl
@[simp] theorem scrambleDst_turns (s : State) : s.scrambleDst.turns = s.turns := rfl
@[simp] theorem scrambleDst_rdata (s : State) : s.scrambleDst.rdata = s.rdata := rfl
@[simp] theorem scrambleDst_claimsMet (s : State) : s.scrambleDst.claimsMet = s.claimsMet := rfl
@[simp] theorem scrambleDst_disturbed (s : State) : s.scrambleDst.disturbed = s.disturbed := rfl
@[simp] theorem scrambleDst_draw (s : State) : s.scrambleDst.draw = s.draw + 1 := rfl

@[simp] theorem hostStore_ctrl (a : Nat) (b : Byte) (s : State) : (s.hostStore a b).ctrl = s.ctrl := rfl
@[simp] theorem hostStore_status (a : Nat) (b : Byte) (s : State) : (s.hostStore a b).status = s.status := rfl
@[simp] theorem hostStore_cmd (a : Nat) (b : Byte) (s : State) : (s.hostStore a b).cmd = s.cmd := rfl
@[simp] theorem hostStore_srcAddr (a : Nat) (b : Byte) (s : State) : (s.hostStore a b).srcAddr = s.srcAddr := rfl
@[simp] theorem hostStore_srcLen (a : Nat) (b : Byte) (s : State) : (s.hostStore a b).srcLen = s.srcLen := rfl
@[simp] theorem hostStore_dstAddr (a : Nat) (b : Byte) (s : State) : (s.hostStore a b).dstAddr = s.dstAddr := rfl
@[simp] theorem hostStore_dstCap (a : Nat) (b : Byte) (s : State) : (s.hostStore a b).dstCap = s.dstCap := rfl
@[simp] theorem hostStore_resultLen (a : Nat) (b : Byte) (s : State) : (s.hostStore a b).resultLen = s.resultLen := rfl
@[simp] theorem hostStore_origLen (a : Nat) (b : Byte) (s : State) : (s.hostStore a b).origLen = s.origLen := rfl
@[simp] theorem hostStore_leafCount (a : Nat) (b : Byte) (s : State) : (s.hostStore a b).leafCount = s.leafCount := rfl
@[simp] theorem hostStore_nodeCount (a : Nat) (b : Byte) (s : State) : (s.hostStore a b).nodeCount = s.nodeCount := rfl
@[simp] theorem hostStore_root (a : Nat) (b : Byte) (s : State) : (s.hostStore a b).root = s.root := rfl
@[simp] theorem hostStore_codeWidth (a : Nat) (b : Byte) (s : State) : (s.hostStore a b).codeWidth = s.codeWidth := rfl
@[simp] theorem hostStore_maxCode (a : Nat) (b : Byte) (s : State) : (s.hostStore a b).maxCode = s.maxCode := rfl
@[simp] theorem hostStore_dictSize (a : Nat) (b : Byte) (s : State) : (s.hostStore a b).dictSize = s.dictSize := rfl
@[simp] theorem hostStore_codeCount (a : Nat) (b : Byte) (s : State) : (s.hostStore a b).codeCount = s.codeCount := rfl
@[simp] theorem hostStore_freq (a : Nat) (b : Byte) (s : State) : (s.hostStore a b).freq = s.freq := rfl
@[simp] theorem hostStore_codeLen (a : Nat) (b : Byte) (s : State) : (s.hostStore a b).codeLen = s.codeLen := rfl
@[simp] theorem hostStore_codeBits (a : Nat) (b : Byte) (s : State) : (s.hostStore a b).codeBits = s.codeBits := rfl
@[simp] theorem hostStore_nodes (a : Nat) (b : Byte) (s : State) : (s.hostStore a b).nodes = s.nodes := rfl
@[simp] theorem hostStore_latch (a : Nat) (b : Byte) (s : State) : (s.hostStore a b).latch = s.latch := rfl
@[simp] theorem hostStore_mem (a : Nat) (b : Byte) (s : State) : (s.hostStore a b).mem = s.mem.write a b := rfl
@[simp] theorem hostStore_plat (a : Nat) (b : Byte) (s : State) : (s.hostStore a b).plat = s.plat := rfl
@[simp] theorem hostStore_turns (a : Nat) (b : Byte) (s : State) : (s.hostStore a b).turns = s.turns := rfl
@[simp] theorem hostStore_rdata (a : Nat) (b : Byte) (s : State) : (s.hostStore a b).rdata = s.rdata := rfl
@[simp] theorem hostStore_claimsMet (a : Nat) (b : Byte) (s : State) : (s.hostStore a b).claimsMet = s.claimsMet := rfl
@[simp] theorem hostStore_disturbed (a : Nat) (b : Byte) (s : State) :
    (s.hostStore a b).disturbed = (s.disturbed || s.runningHas inWindows a) := rfl
@[simp] theorem hostStore_draw (a : Nat) (b : Byte) (s : State) : (s.hostStore a b).draw = s.draw := rfl

@[simp] theorem claim_ctrl (v : Word) (s : State) : (s.claim v).ctrl = s.ctrl := rfl
@[simp] theorem claim_status (v : Word) (s : State) : (s.claim v).status = s.status := rfl
@[simp] theorem claim_cmd (v : Word) (s : State) : (s.claim v).cmd = s.cmd := rfl
@[simp] theorem claim_srcAddr (v : Word) (s : State) : (s.claim v).srcAddr = s.srcAddr := rfl
@[simp] theorem claim_srcLen (v : Word) (s : State) : (s.claim v).srcLen = s.srcLen := rfl
@[simp] theorem claim_dstAddr (v : Word) (s : State) : (s.claim v).dstAddr = s.dstAddr := rfl
@[simp] theorem claim_dstCap (v : Word) (s : State) : (s.claim v).dstCap = s.dstCap := rfl
@[simp] theorem claim_resultLen (v : Word) (s : State) : (s.claim v).resultLen = s.resultLen := rfl
@[simp] theorem claim_origLen (v : Word) (s : State) : (s.claim v).origLen = s.origLen := rfl
@[simp] theorem claim_leafCount (v : Word) (s : State) : (s.claim v).leafCount = s.leafCount := rfl
@[simp] theorem claim_nodeCount (v : Word) (s : State) : (s.claim v).nodeCount = s.nodeCount := rfl
@[simp] theorem claim_root (v : Word) (s : State) : (s.claim v).root = s.root := rfl
@[simp] theorem claim_codeWidth (v : Word) (s : State) : (s.claim v).codeWidth = s.codeWidth := rfl
@[simp] theorem claim_maxCode (v : Word) (s : State) : (s.claim v).maxCode = s.maxCode := rfl
@[simp] theorem claim_dictSize (v : Word) (s : State) : (s.claim v).dictSize = s.dictSize := rfl
@[simp] theorem claim_codeCount (v : Word) (s : State) : (s.claim v).codeCount = s.codeCount := rfl
@[simp] theorem claim_freq (v : Word) (s : State) : (s.claim v).freq = s.freq := rfl
@[simp] theorem claim_codeLen (v : Word) (s : State) : (s.claim v).codeLen = s.codeLen := rfl
@[simp] theorem claim_codeBits (v : Word) (s : State) : (s.claim v).codeBits = s.codeBits := rfl
@[simp] theorem claim_nodes (v : Word) (s : State) : (s.claim v).nodes = s.nodes := rfl
@[simp] theorem claim_latch (v : Word) (s : State) : (s.claim v).latch = s.latch := rfl
@[simp] theorem claim_mem (v : Word) (s : State) : (s.claim v).mem = s.mem := rfl
@[simp] theorem claim_plat (v : Word) (s : State) : (s.claim v).plat = s.plat := rfl
@[simp] theorem claim_turns (v : Word) (s : State) : (s.claim v).turns = s.turns := rfl
@[simp] theorem claim_rdata (v : Word) (s : State) : (s.claim v).rdata = s.rdata := rfl
@[simp] theorem claim_claimsMet (v : Word) (s : State) :
    (s.claim v).claimsMet = (s.claimsMet && decide (s.rdata = v)) := rfl
@[simp] theorem claim_disturbed (v : Word) (s : State) : (s.claim v).disturbed = s.disturbed := rfl
@[simp] theorem claim_draw (v : Word) (s : State) : (s.claim v).draw = s.draw := rfl

@[simp] theorem launch_ctrl (w : Word) (s : State) : (s.launch w).ctrl = s.ctrl := rfl
@[simp] theorem launch_status (w : Word) (s : State) : (s.launch w).status = s.status.launched := rfl
@[simp] theorem launch_cmd (w : Word) (s : State) : (s.launch w).cmd = w := rfl
@[simp] theorem launch_srcAddr (w : Word) (s : State) : (s.launch w).srcAddr = s.srcAddr := rfl
@[simp] theorem launch_srcLen (w : Word) (s : State) : (s.launch w).srcLen = s.srcLen := rfl
@[simp] theorem launch_dstAddr (w : Word) (s : State) : (s.launch w).dstAddr = s.dstAddr := rfl
@[simp] theorem launch_dstCap (w : Word) (s : State) : (s.launch w).dstCap = s.dstCap := rfl
@[simp] theorem launch_resultLen (w : Word) (s : State) : (s.launch w).resultLen = s.resultLen := rfl
@[simp] theorem launch_origLen (w : Word) (s : State) : (s.launch w).origLen = s.origLen := rfl
@[simp] theorem launch_leafCount (w : Word) (s : State) : (s.launch w).leafCount = s.leafCount := rfl
@[simp] theorem launch_nodeCount (w : Word) (s : State) : (s.launch w).nodeCount = s.nodeCount := rfl
@[simp] theorem launch_root (w : Word) (s : State) : (s.launch w).root = s.root := rfl
@[simp] theorem launch_codeWidth (w : Word) (s : State) : (s.launch w).codeWidth = s.codeWidth := rfl
@[simp] theorem launch_maxCode (w : Word) (s : State) : (s.launch w).maxCode = s.maxCode := rfl
@[simp] theorem launch_dictSize (w : Word) (s : State) : (s.launch w).dictSize = s.dictSize := rfl
@[simp] theorem launch_codeCount (w : Word) (s : State) : (s.launch w).codeCount = s.codeCount := rfl
@[simp] theorem launch_freq (w : Word) (s : State) : (s.launch w).freq = s.freq := rfl
@[simp] theorem launch_codeLen (w : Word) (s : State) : (s.launch w).codeLen = s.codeLen := rfl
@[simp] theorem launch_codeBits (w : Word) (s : State) : (s.launch w).codeBits = s.codeBits := rfl
@[simp] theorem launch_nodes (w : Word) (s : State) : (s.launch w).nodes = s.nodes := rfl
@[simp] theorem launch_latch (w : Word) (s : State) :
    (s.launch w).latch = Latch.mk w s.srcAddr s.srcLen s.dstAddr s.dstCap s.origLen s.ctrl.nogainEn := rfl
@[simp] theorem launch_mem (w : Word) (s : State) : (s.launch w).mem = s.mem := rfl
@[simp] theorem launch_plat (w : Word) (s : State) : (s.launch w).plat = s.plat := rfl
@[simp] theorem launch_turns (w : Word) (s : State) : (s.launch w).turns = s.turns := rfl
@[simp] theorem launch_rdata (w : Word) (s : State) : (s.launch w).rdata = s.rdata := rfl
@[simp] theorem launch_claimsMet (w : Word) (s : State) : (s.launch w).claimsMet = s.claimsMet := rfl
@[simp] theorem launch_disturbed (w : Word) (s : State) : (s.launch w).disturbed = false := rfl
@[simp] theorem launch_draw (w : Word) (s : State) : (s.launch w).draw = s.draw := rfl

/-! ### The fields of STATUS after its updates -/

@[simp] theorem completed_busy (t : Status) : t.completed.busy = false := rfl
@[simp] theorem completed_done (t : Status) : t.completed.done = true := rfl
@[simp] theorem completed_err (t : Status) : t.completed.err = t.err := rfl
@[simp] theorem completed_dropped (t : Status) : t.completed.dropped = t.dropped := rfl
@[simp] theorem completed_treeValid (t : Status) : t.completed.treeValid = t.treeValid := rfl
@[simp] theorem completed_codesValid (t : Status) : t.completed.codesValid = t.codesValid := rfl
@[simp] theorem completed_ecode (t : Status) : t.completed.ecode = 0#4 := rfl
@[simp] theorem failed_busy (e : ErrCode) (t : Status) : (t.failed e).busy = false := rfl
@[simp] theorem failed_done (e : ErrCode) (t : Status) : (t.failed e).done = t.done := rfl
@[simp] theorem failed_err (e : ErrCode) (t : Status) : (t.failed e).err = true := rfl
@[simp] theorem failed_dropped (e : ErrCode) (t : Status) : (t.failed e).dropped = t.dropped := rfl
@[simp] theorem failed_treeValid (e : ErrCode) (t : Status) : (t.failed e).treeValid = t.treeValid := rfl
@[simp] theorem failed_codesValid (e : ErrCode) (t : Status) : (t.failed e).codesValid = t.codesValid := rfl
@[simp] theorem failed_ecode (e : ErrCode) (t : Status) : (t.failed e).ecode = e.code := rfl
@[simp] theorem launched_busy (t : Status) : t.launched.busy = true := rfl
@[simp] theorem launched_done (t : Status) : t.launched.done = false := rfl
@[simp] theorem launched_err (t : Status) : t.launched.err = false := rfl
@[simp] theorem launched_dropped (t : Status) : t.launched.dropped = t.dropped := rfl
@[simp] theorem launched_treeValid (t : Status) : t.launched.treeValid = t.treeValid := rfl
@[simp] theorem launched_codesValid (t : Status) : t.launched.codesValid = t.codesValid := rfl
@[simp] theorem launched_ecode (t : Status) : t.launched.ecode = t.ecode := rfl

/-- No error's code is 14 or 15, and none is 0 (R1000, R1014). -/
theorem code_range (e : ErrCode) : 1 ≤ e.code.toNat ∧ e.code.toNat ≤ 13 := by
  cases e <;> decide

end Sys2Proof.Machine
end

