-- ==== Sys2Proof/Laws/Commands.lean ====
section
/-! SUPPORT. What each shared operation of a command can do, once for each: the completion, a part that may raise, a
write to the DST window, the frame of a windowed command, and a command whose outputs are any value. -/

namespace Sys2Proof.Machine

/-! ### The end of a command -/

/-- The only ways a pseudocode's end gives a next state (R303): it ran to its last line, or it raised. -/
theorem finish_next {e : Ending} {t : State} (h : e.finish = .next t) :
    (∃ s, e = .done s ∧ t = s.complete s.status.completed) ∨
      (∃ x n s, e = .raised x n s ∧
        t = (s.setResultLen (min n Config.wordMax)).complete (s.status.failed x)) := by
  cases e with
  | done s => exact .inl ⟨s, rfl, by simpa [Ending.finish, eq_comm] using h⟩
  | raised x n s => exact .inr ⟨x, n, s, rfl, by simpa [Ending.finish, eq_comm] using h⟩
  | stuck f => simp [Ending.finish] at h

theorem finish_done (s : State) : (Ending.done s).finish = .next (s.complete s.status.completed) := rfl

theorem finish_raised (x : ErrCode) (n : Nat) (s : State) :
    (Ending.raised x n s).finish =
      .next ((s.setResultLen (min n Config.wordMax)).complete (s.status.failed x)) := rfl

@[simp] theorem andThen_done (s : State) (k : State → Ending) : (Ending.done s).andThen k = k s := rfl

@[simp] theorem andThen_raised (x : ErrCode) (n : Nat) (s : State) (k : State → Ending) :
    (Ending.raised x n s).andThen k = .raised x n s := rfl

@[simp] theorem andThen_stuck (f : Fault) (k : State → Ending) : (Ending.stuck f).andThen k = .stuck f := rfl

/-- A part that may raise, followed by the rest: it raised, it was stuck, or the rest ran. -/
theorem andThen_cases (e : Ending) (k : State → Ending) :
    (∃ s, e = .done s ∧ e.andThen k = k s) ∨ (∃ x n s, e = .raised x n s ∧ e.andThen k = e) ∨
      (∃ f, e = .stuck f ∧ e.andThen k = e) := by
  cases e with
  | done s => exact .inl ⟨s, rfl, rfl⟩
  | raised x n s => exact .inr (.inl ⟨x, n, s, rfl, rfl⟩)
  | stuck f => exact .inr (.inr ⟨f, rfl, rfl⟩)

/-- A write to the DST window (R161, R163): all of it, or a BUS_ERROR after which every DST byte is any value. -/
theorem writeDst_cases (out : List Byte) (n : Nat) (s : State) :
    (allOk s.plat .write s.dstA out.length = true ∧
        writeDst out n s = .done ((s.setMem (s.mem.poke s.dstA out)).setResultLen n)) ∨
      (allOk s.plat .write s.dstA out.length = false ∧ writeDst out n s = .raised .busError 0 s.scrambleDst) := by
  unfold writeDst State.dstA
  by_cases h : allOk s.plat .write s.latch.dstAddr.toNat out.length = true
  · exact .inl ⟨h, by rw [if_pos h]⟩
  · exact .inr ⟨by simpa using h, by rw [if_neg h]; rfl⟩

/-- A raise before or after the first MemWrite (R162, R163). -/
theorem raiseAt_eq (late : Bool) (x : ErrCode) (s : State) :
    raiseAt late x s = .raised x 0 (if late = true then s.scrambleDst else s) := rfl

/-- Free values in the DST window change no byte outside it (R163). -/
theorem scrambleDst_outside (s : State) : KeepsMemOutside s.dstA s.dstN s s.scrambleDst := by
  intro a ha
  refine read_scramble_outside ?_
  have hle : clipLen s.dstA s.dstN ≤ s.dstN := Nat.min_le_left _ _
  unfold State.dstA State.dstN at *
  omega

/-! ### The frame of a command (R302, R304, R1113) -/

/-- How a windowed command answers a next state: disturbed, run, or turned away by a window check. -/
theorem windowed_next {i : Instr} {body : State → Ending} {s t : State} (h : windowed i body s = .next t) :
    (s.disturbed = true ∧ t = s.anyOutputs i) ∨
      (s.disturbed = false ∧ windowsOk i s = true ∧ (body s).finish = .next t) ∨
      (s.disturbed = false ∧ windowsOk i s = false ∧
        t = (s.setResultLen 0).complete (s.status.failed .badArgs)) := by
  unfold windowed at h
  by_cases hd : s.disturbed = true
  · rw [if_pos hd] at h
    exact .inl ⟨hd, by simpa [eq_comm] using h⟩
  · rw [if_neg hd] at h
    by_cases hw : windowsOk i s = true
    · rw [if_pos hw] at h
      exact .inr (.inl ⟨by simpa using hd, hw, h⟩)
    · rw [if_neg hw, finish_raised] at h
      exact .inr (.inr ⟨by simpa using hd, by simpa using hw, by simpa [eq_comm] using h⟩)

/-- An undisturbed command whose windows pass the checks runs its pseudocode. -/
theorem windowed_run {i : Instr} {body : State → Ending} {s : State} (hd : s.disturbed = false)
    (hw : windowsOk i s = true) : windowed i body s = (body s).finish := by
  simp [windowed, hd, hw]

/-- The window checks, as R153 words them. -/
theorem windowsOk_iff (i : Instr) (s : State) :
    windowsOk i s = true ↔
      (usesSrc i = true → s.srcA + s.srcN ≤ Config.addrSpace) ∧
      (usesDst i = true → s.dstA + s.dstN ≤ Config.addrSpace) ∧
      (usesSrc i = true → usesDst i = true →
        ¬(0 < s.srcN ∧ 0 < s.dstN ∧ s.srcA < s.dstA + s.dstN ∧ s.dstA < s.srcA + s.srcN)) := by
  unfold windowsOk windowFits windowsOverlap
  cases usesSrc i <;> cases usesDst i
  · simp
  · simp
  · simp
  · simp only [Bool.not_true, Bool.false_or, Bool.and_true, Bool.and_eq_true, Bool.not_eq_true',
      Bool.and_eq_false_iff, decide_eq_true_eq, decide_eq_false_iff_not, forall_const]
    omega

/-! ### A disturbed command (R1113) -/

/-- A free error code is one a completion writes (R1014). -/
theorem freeEcode_le (d : Nat) : (freeEcode d).toNat ≤ 13 := by
  unfold freeEcode
  split <;> simp_all

/-- A disturbed command still completes, with DONE or ERR and an assigned code, and changes nothing but its
own outputs, RESULT_LEN and STATUS. -/
theorem anyOutputs_spec (i : Instr) (s : State) :
    (s.anyOutputs i).status.busy = false ∧
      (s.anyOutputs i).status.err = !(s.anyOutputs i).status.done ∧
      (s.anyOutputs i).status.dropped = s.status.dropped ∧
      (s.anyOutputs i).status.ecode.toNat ≤ 13 ∧
      (s.anyOutputs i).disturbed = false ∧
      KeepsArgs s (s.anyOutputs i) ∧
      ((outputsOf i).freq = false → KeepsFreq s (s.anyOutputs i)) ∧
      ((outputsOf i).tree = false → KeepsTree s (s.anyOutputs i)) ∧
      ((outputsOf i).codes = false → KeepsCodes s (s.anyOutputs i)) ∧
      ((outputsOf i).tree = false → (outputsOf i).codes = false → KeepsFlags s (s.anyOutputs i)) ∧
      ((outputsOf i).origLen = false → KeepsOrig s (s.anyOutputs i)) ∧
      ((outputsOf i).lzw = false → KeepsLzw s (s.anyOutputs i)) ∧
      (usesDst i = false → (s.anyOutputs i).mem = s.mem) ∧
      (usesDst i = true → (s.anyOutputs i).mem = s.scrambleDst.mem) := by
  unfold State.anyOutputs
  cases hd : usesDst i
  · refine ⟨rfl, rfl, rfl, freeEcode_le _, rfl, ?_⟩
    simp only [KeepsArgs, KeepsFreq, KeepsTree, KeepsCodes, KeepsFlags, KeepsOrig, KeepsLzw, State.freeCompletion,
      State.freeOutputs]
    refine ⟨by simp, ?_⟩
    simp +contextual
  · refine ⟨rfl, rfl, rfl, freeEcode_le _, rfl, ?_⟩
    simp only [KeepsArgs, KeepsFreq, KeepsTree, KeepsCodes, KeepsFlags, KeepsOrig, KeepsLzw, State.freeCompletion,
      State.freeOutputs]
    refine ⟨by simp, ?_⟩
    simp +contextual

/-- A disturbed command leaves TREE_VALID only over a valid tree, when it was so before (R81). -/
theorem anyOutputs_treeInv (i : Instr) {s : State} (h : s.TreeInv) : (s.anyOutputs i).TreeInv := by
  unfold State.anyOutputs
  cases usesDst i <;>
  · intro ht
    by_cases ho : (outputsOf i).tree = true
    · simp only [State.freeCompletion, ho, if_true, Bool.and_eq_true] at ht
      exact ht.2
    · simp only [State.freeCompletion, ho, if_false, Bool.false_eq_true] at ht
      have := h ht
      simpa [State.treeOk, State.freeCompletion, State.freeOutputs, ho] using this

end Sys2Proof.Machine
end

