-- ==== Sys2Proof/Laws/Bodies.lean ====
section
/-! SUPPORT. Every way each shared part of a command's pseudocode can end, and where the host's accesses go. -/

namespace Sys2Proof.Machine

/-- R400's counting: FREQ is written, and a refused read raises. -/
theorem freqBody_cases (s : State) :
    (allOk s.plat .read s.srcA s.srcN = true ∧ freqBody s = .done (s.setFreq (countBytes zeroFreq s.src))) ∨
      (allOk s.plat .read s.srcA s.srcN = false ∧
        freqBody s =
          .raised .busError 0 (s.setFreq (countBytes zeroFreq (readable s.plat s.mem s.srcA s.srcN)))) := by
  by_cases h : allOk s.plat .read s.srcA s.srcN = true
  · exact .inl ⟨h, by simp [freqBody, h, readable_of_allOk h, State.src]⟩
  · exact .inr ⟨by simpa using h, by simp [freqBody, h]⟩

/-- R501's table of the current tree; the model is stuck only where the NODE window holds no tree (log 12). -/
theorem codesBody_cases (s : State) :
    (s.tree = none ∧ codesBody s = .stuck .treeWindowBroken) ∨
      ∃ t, s.tree = some t ∧ codesBody s = .done (s.setCodes t.codeTable.len t.codeTable.bits) := by
  unfold codesBody
  cases h : s.tree with
  | none => exact .inl ⟨rfl, rfl⟩
  | some t => exact .inr ⟨t, rfl, rfl⟩

/-- R612 from the padding check on: CORRUPT_TREE over the nodes parsed so far, or a finished tree. -/
theorem parseBody_cases (l : Nat) (bs : List Byte) (s : State) :
    (∃ ns, parseBody l bs s = .raised .corruptTree 0 (s.setNodes ns)) ∨
      ∃ p r, true ∉ (bitsOf bs).drop (10 * l - 1) ∧
        parseTree l (2 * l) { nodes := zeroNodes, rest := (bitsOf bs).take (10 * l - 1), cnt := 0, seen := [] } =
          (p, some r) ∧
        p.rest = [] ∧ parseBody l bs s = .done (s.setTree p.nodes r l) := by
  unfold parseBody
  by_cases hp : true ∈ (bitsOf bs).drop (10 * l - 1)
  · exact .inl ⟨zeroNodes, by simp [hp]⟩
  · generalize hq : parseTree l (2 * l)
      { nodes := zeroNodes, rest := (bitsOf bs).take (10 * l - 1), cnt := 0, seen := [] } = q
    obtain ⟨p, o⟩ := q
    cases o with
    | none => exact .inl ⟨p.nodes, by simp [hp, hq]⟩
    | some r =>
      by_cases hr : p.rest = []
      · exact .inr ⟨p, r, hp, rfl, hr, by simp [hp, hq, hr]⟩
      · exact .inl ⟨p.nodes, by simp [hp, hq, hr]⟩

/-- R612 up to `STATUS.TREE_VALID <- 1`: turned away by the header checks or a refused read before any change,
a refused read of the traversal, or what the parse does. -/
theorem deserializeBody_cases (a n : Nat) (s : State) :
    (∃ x, (x = .corruptTree ∨ x = .busError) ∧ deserializeBody a n s = .raised x 0 s) ∨
      deserializeBody a n s = .raised .busError 0 (s.setNodes zeroNodes) ∨
      ∃ l, allOk s.plat .read a 2 = true ∧ l = beNat (s.mem.peek a 2) ∧ 1 ≤ l ∧ l ≤ 256 ∧ 2 + treeBytes l ≤ n ∧
        allOk s.plat .read (a + 2) (treeBytes l) = true ∧
        deserializeBody a n s = parseBody l (s.mem.peek (a + 2) (treeBytes l)) s := by
  unfold deserializeBody
  by_cases h2 : n < 2
  · exact .inl ⟨_, .inl rfl, by rw [if_pos h2]⟩
  rw [if_neg h2]
  by_cases ha : allOk s.plat .read a 2 = true
  · rw [memRead, if_pos ha]
    simp only
    by_cases hl : beNat (s.mem.peek a 2) = 0 ∨ Config.maxLeaves < beNat (s.mem.peek a 2)
    · exact .inl ⟨_, .inl rfl, by rw [if_pos hl]⟩
    rw [if_neg hl]
    by_cases hn : n < 2 + treeBytes (beNat (s.mem.peek a 2))
    · exact .inl ⟨_, .inl rfl, by rw [if_pos hn]⟩
    rw [if_neg hn]
    by_cases hb : allOk s.plat .read (a + 2) (treeBytes (beNat (s.mem.peek a 2))) = true
    · refine .inr (.inr ⟨_, ha, rfl, ?_, ?_, by omega, hb, by rw [memRead, if_pos hb]⟩)
      · omega
      · unfold Config.maxLeaves at hl
        omega
    · exact .inr (.inl (by rw [memRead, if_neg hb]))
  · exact .inl ⟨_, .inr rfl, by rw [memRead, if_neg ha]⟩

/-- R712 from `b0 <- MemRead(…)` on: stuck only without a tree (log 12); an error before the first write, or one after
which every DST byte is any value; or all `n` symbols written. -/
theorem unpackBody_cases (a m n : Nat) (s : State) :
    unpackBody a m n s = .stuck .treeWindowBroken ∧ s.tree = none ∨
      (∃ x, x ∈ [ErrCode.busError, .format, .lengthMismatch] ∧
        (unpackBody a m n s = .raised x 0 s ∨ unpackBody a m n s = .raised x 0 s.scrambleDst)) ∨
      ∃ t, s.tree = some t ∧ t.decodeMany n (payloadBits (s.mem.peek a m)) =
          ((t.decodeMany n (payloadBits (s.mem.peek a m))).1, [], true) ∧
        unpackBody a m n s = writeDst (t.decodeMany n (payloadBits (s.mem.peek a m))).1 n s := by
  unfold unpackBody
  cases hb : memRead s.plat s.mem a 1 with
  | none => exact .inr (.inl ⟨.busError, by simp, .inl rfl⟩)
  | some b0 =>
    simp only
    by_cases h0 : beNat b0 = 0
    · exact .inr (.inl ⟨.format, by simp, .inl (by rw [if_pos h0])⟩)
    rw [if_neg h0]
    cases ht : s.tree with
    | none => exact .inl ⟨rfl, rfl⟩
    | some t =>
      simp only
      by_cases hr : (!t.isLeaf && !(payloadBits (s.mem.peek a m)).isEmpty && !allOk s.plat .read a m) = true
      · exact .inr (.inl ⟨.busError, by simp, .inl (by rw [if_pos hr])⟩)
      rw [if_neg hr]
      generalize hq : t.decodeMany n (payloadBits (s.mem.peek a m)) = q
      obtain ⟨out, rest, ok⟩ := q
      simp only
      by_cases hw : (!allOk s.plat .write s.dstA out.length) = true
      · exact .inr (.inl ⟨.busError, by simp, .inr (by rw [if_pos hw]; rfl)⟩)
      rw [if_neg hw]
      cases ok with
      | false =>
        refine .inr (.inl ⟨.lengthMismatch, by simp, ?_⟩)
        simp only [Bool.not_false, if_true, raiseAt]
        cases out.isEmpty
        · exact .inr rfl
        · exact .inl rfl
      | true =>
        simp only [Bool.not_true, Bool.false_eq_true, if_false]
        cases rest with
        | nil => exact .inr (.inr ⟨t, rfl, by rw [hq], by rw [hq]; simp⟩)
        | cons c cs => exact .inr (.inl ⟨.lengthMismatch, by simp, .inr rfl⟩)

/-- R912 from `CODE_WIDTH <- W` on: an error, before or after the first write, or the decoded bytes written; the four
result registers hold what the loop left in either case. -/
theorem lzwPayload_cases (w z k : Nat) (s : State) :
    (∃ (x : ErrCode) (late : Bool) (r : LzwRun), lzwPayload w z k s =
        .raised x 0 (if late = true then (s.setLzw w r.mx r.count r.size).scrambleDst
          else s.setLzw w r.mx r.count r.size)) ∨
      ∃ r, decodeLoop s.plat (s.srcA + 1) w s.dstA s.dstN k (z + 1)
          ((bitsOf (s.mem.peek (s.srcA + 1) (s.srcN - 1))).drop (z + 1)) LzwRun.start = .complete r ∧
        lzwPayload w z k s = writeDst r.out r.out.length (s.setLzw w r.mx r.count r.size) := by
  unfold lzwPayload
  cases hq : decodeLoop s.plat (s.srcA + 1) w s.dstA s.dstN k (z + 1)
      ((bitsOf (s.mem.peek (s.srcA + 1) (s.srcN - 1))).drop (z + 1)) LzwRun.start with
  | failed x late r => exact .inl ⟨x, late, r, by simp only [hq]; rfl⟩
  | complete r => exact .inr ⟨r, rfl, by simp only [hq]⟩

/-- R53, R90: where a bus access of the host goes. -/
theorem route_cases (p : Platform) (a w : Nat) :
    (∃ r, route p a w = .error r) ∨
      (p.mmioBase ≤ a ∧ a < p.mmioBase + Config.blockSize ∧ w = 32 ∧ (a - p.mmioBase) % 4 = 0 ∧
        route p a w = .ok (regAt (a - p.mmioBase))) := by
  unfold route
  by_cases h1 : a < p.mmioBase ∨ p.mmioBase + Config.blockSize ≤ a
  · exact .inl ⟨_, by rw [if_pos h1]⟩
  by_cases h2 : w ≠ 32 ∨ (a - p.mmioBase) % 4 ≠ 0
  · exact .inl ⟨_, by rw [if_neg h1, if_pos h2]⟩
  · exact .inr ⟨by omega, by omega, by omega, by omega, by rw [if_neg h1, if_neg h2]⟩

/-- Everything a host access can do when it answers a next state: a register write, a register read, one whose value is
stated, a store, a load,
a poll. -/
theorem hostStep_next {op : HostOp} {s t : State} (h : hostStep op s = .next t) :
    (∃ a v, op = .busWrite a 32 v ∧ t = s.hostWrite (regAt (a - s.plat.mmioBase)) v) ∨
      (∃ a, op = .busRead a 32 ∧ t = s.hostRead (regAt (a - s.plat.mmioBase))) ∨
      (∃ a v, op = .busReadIs a 32 v ∧ t = (s.hostRead (regAt (a - s.plat.mmioBase))).claim v) ∨
      (∃ a b, op = .memStore a b ∧ a < Config.addrSpace ∧ t = s.hostStore a b) ∨
      (∃ a, op = .memLoad a ∧ a < Config.addrSpace ∧ t = s.hostLoad a) ∨ (op = .waitIdle ∧ t = s.poll) := by
  cases op with
  | busWrite a w v =>
    rcases route_cases s.plat a w with ⟨r, hr⟩ | ⟨-, -, rfl, -, hr⟩
    · simp [hostStep, hr] at h
    · exact .inl ⟨a, v, rfl, by simpa [hostStep, hr, eq_comm] using h⟩
  | busRead a w =>
    rcases route_cases s.plat a w with ⟨r, hr⟩ | ⟨-, -, rfl, -, hr⟩
    · simp [hostStep, hr] at h
    · exact .inr (.inl ⟨a, rfl, by simpa [hostStep, hr, eq_comm] using h⟩)
  | busReadIs a w v =>
    rcases route_cases s.plat a w with ⟨r, hr⟩ | ⟨-, -, rfl, -, hr⟩
    · simp [hostStep, hr] at h
    · exact .inr (.inr (.inl ⟨a, v, rfl, by simpa [hostStep, hr, eq_comm] using h⟩))
  | memStore a b =>
    by_cases ha : a < Config.addrSpace
    · exact .inr (.inr (.inr (.inl ⟨a, b, rfl, ha, by simpa [hostStep, ha, eq_comm] using h⟩)))
    · simp [hostStep, ha] at h
  | memLoad a =>
    by_cases ha : a < Config.addrSpace
    · exact .inr (.inr (.inr (.inr (.inl ⟨a, rfl, ha, by simpa [hostStep, ha, eq_comm] using h⟩))))
    · simp [hostStep, ha] at h
  | waitIdle => exact .inr (.inr (.inr (.inr (.inr ⟨rfl, by simpa [hostStep, eq_comm] using h⟩))))

/-- Everything a step can do when it answers a next state: the engine waits, runs its command or fails its illegal word;
the host accesses; a reset. -/
theorem step_next {s t : State} (h : step s = .next t) :
    (∃ s', (s.turns = [] ∧ s' = s ∨ ∃ ts, s.turns = .engine :: ts ∧ s' = { s with turns := ts }) ∧
      (s.status.busy = false ∧ t = s' ∨
        (∃ i, s.status.busy = true ∧ s.command = some i ∧ exec i s' = .next t) ∨
        s.status.busy = true ∧ s.command = none ∧ badCommand s' = .next t)) ∨
    (∃ op ts, s.turns = .host op :: ts ∧ hostStep op { s with turns := ts } = .next t) ∨
    (∃ ts, s.turns = .reset :: ts ∧ t = ({ s with turns := ts } : State).hardReset) := by
  have key : ∀ s' : State, s'.status = s.status → s'.latch = s.latch → engineTurn s' = .next t →
      s.status.busy = false ∧ t = s' ∨
        (∃ i, s.status.busy = true ∧ s.command = some i ∧ exec i s' = .next t) ∨
        s.status.busy = true ∧ s.command = none ∧ badCommand s' = .next t := by
    intro s' h1 h2 he
    have hc : s'.command = s.command := by simp [State.command, h2]
    unfold engineTurn at he
    rw [h1, hc] at he
    cases hb : s.status.busy with
    | false => rw [hb] at he; exact .inl ⟨rfl, by simpa [eq_comm] using he⟩
    | true =>
      rw [hb, if_pos rfl] at he
      cases hi : s.command with
      | none => rw [hi] at he; exact .inr (.inr ⟨rfl, rfl, he⟩)
      | some i => rw [hi] at he; exact .inr (.inl ⟨i, rfl, rfl, he⟩)
  unfold step at h
  cases hs : s.turns with
  | nil => rw [hs] at h; exact .inl ⟨s, .inl ⟨rfl, rfl⟩, key s rfl rfl h⟩
  | cons tn ts =>
    rw [hs] at h
    cases tn with
    | engine => exact .inl ⟨_, .inr ⟨ts, rfl, rfl⟩, key _ rfl rfl h⟩
    | host op => exact .inr (.inl ⟨op, ts, rfl, h⟩)
    | reset => exact .inr (.inr ⟨ts, rfl, by simpa [eq_comm] using h⟩)

end Sys2Proof.Machine
end

