-- ==== Sys2Proof/Laws/PerInstr.lean ====
section
/-! SUPPORT. What is said of every command as syntax, one lemma per constructor of `Instr`. -/

namespace Sys2Proof.Laws.DecodesBack

/-- The command's word decodes to the command, whose table row has 32 bits (R202). -/
def Statement (i : Instr) : Prop :=
  i.wf = true ∧ decode (encode i) = .ok i ∧ decodeTableWord 32 (encode i).toNat = some i

theorem nop : Statement .nop := ⟨rfl, rfl, rfl⟩
theorem clear : Statement .clear := ⟨rfl, rfl, rfl⟩
theorem freqCount : Statement .freqCount := ⟨rfl, rfl, rfl⟩
theorem treeBuild : Statement .treeBuild := ⟨rfl, rfl, rfl⟩
theorem codeGen : Statement .codeGen := ⟨rfl, rfl, rfl⟩
theorem treeSerialize : Statement .treeSerialize := ⟨rfl, rfl, rfl⟩
theorem treeDeserialize : Statement .treeDeserialize := ⟨rfl, rfl, rfl⟩
theorem bitPack : Statement .bitPack := ⟨rfl, rfl, rfl⟩
theorem bitUnpack : Statement .bitUnpack := ⟨rfl, rfl, rfl⟩
theorem hufCompress : Statement .hufCompress := ⟨rfl, rfl, rfl⟩
theorem hufDecompress : Statement .hufDecompress := ⟨rfl, rfl, rfl⟩
theorem lzwCompress : Statement .lzwCompress := ⟨rfl, rfl, rfl⟩
theorem lzwDecompress : Statement .lzwDecompress := ⟨rfl, rfl, rfl⟩

end Sys2Proof.Laws.DecodesBack
end

