-- ==== Sys2Proof/Laws/Tables.lean ====
section
/-! SUPPORT. The table windows: what an entry reads after an update, what counting leaves in FREQ, and the code table
of a put. -/

namespace Sys2Proof.Machine

variable {α : Type}

@[simp] theorem atByte_setByte_self (v : Vector α 256) (b : Byte) (x : α) : atByte (setByte v b x) b = x := by
  simp [atByte, setByte]

theorem atByte_setByte_ne (v : Vector α 256) {b c : Byte} (x : α) (h : c ≠ b) :
    atByte (setByte v b x) c = atByte v c := by
  have hn : b.toNat ≠ c.toNat := fun e => h (BitVec.eq_of_toNat_eq e.symm)
  simp [atByte, setByte, Vector.getElem_set_ne _ _ hn]

@[simp] theorem atByte_zeroFreq (b : Byte) : atByte zeroFreq b = 0#32 := by simp [atByte, zeroFreq]

@[simp] theorem zeroTable_len (b : Byte) : atByte zeroTable.len b = 0#8 := by simp [atByte, zeroTable]

@[simp] theorem zeroTable_bits (b : Byte) : atByte zeroTable.bits b = 0#256 := by simp [atByte, zeroTable]

theorem nodeAt_setNode_self (ns : Nodes) {i : Nat} (n : Node) (h : i < 511) : nodeAt (setNode ns i n) i = n := by
  simp [nodeAt, setNode, h]

theorem nodeAt_setNode_ne (ns : Nodes) {i j : Nat} (n : Node) (h : j ≠ i) :
    nodeAt (setNode ns i n) j = nodeAt ns j := by
  simp [nodeAt, setNode, Vector.getElem?_setIfInBounds_ne (Ne.symm h)]

@[simp] theorem nodeAt_zeroNodes (i : Nat) : nodeAt zeroNodes i = Node.zero := by
  unfold nodeAt zeroNodes
  by_cases h : i < 511 <;> simp [h]

/-- R400's loop: an entry grows by the number of its bytes. -/
theorem countBytes_entry (f : Vector Word 256) (bs : List Byte) (b : Byte) :
    atByte (countBytes f bs) b = atByte f b + BitVec.ofNat 32 (bs.count b) := by
  induction bs generalizing f with
  | nil => simp [countBytes]
  | cons c bs ih =>
    rw [countBytes, ih]
    by_cases h : b = c
    · subst h
      rw [atByte_setByte_self, List.count_cons_self, BitVec.add_assoc, BitVec.add_comm 1#32,
        ← BitVec.ofNat_add]
    · rw [atByte_setByte_ne _ _ h, List.count_cons_of_ne (Ne.symm h)]

/-- R400: with fewer than 2^32 bytes counted from zero, the entry is the count. -/
theorem countBytes_toNat {bs : List Byte} (h : bs.length < 2 ^ 32) (b : Byte) :
    (atByte (countBytes zeroFreq bs) b).toNat = bs.count b := by
  have hc : bs.count b ≤ bs.length := List.count_le_length
  rw [countBytes_entry, atByte_zeroFreq]
  simp only [BitVec.zero_add, BitVec.toNat_ofNat]
  omega

/-- R76, R77: what one `put` records. -/
theorem put_entry (t : CodeTable) (v b : Byte) (p : Bits) :
    (atByte (t.put v p).len b = if b = v then BitVec.ofNat 8 p.length else atByte t.len b) ∧
      (atByte (t.put v p).bits b = if b = v then BitVec.ofNat 256 (uint p) else atByte t.bits b) := by
  by_cases h : b = v
  · subst h
    simp [CodeTable.put]
  · simp [CodeTable.put, h, atByte_setByte_ne]

end Sys2Proof.Machine
end

