-- ==== Sys2Proof/Tests/Slice0.lean ====
section
/-! SUPPORT. Tests: ill-formed syntax is refused, words written out from the encoding decode as they should, the spec's own
examples (the rule's number stands beside each), and one state that meets the hypotheses of each statement. -/

namespace Sys2Proof.Tests

open Sys2Proof.Machine

-- One theorem at a time: evaluated side by side, the tests need more memory for threads than the check allows.
set_option Elab.async false

/-! ### Ill-formed terms -/

/-- A platform R7 admits, with a refused range. -/
def tPlat : Platform := { lzwDictMax := 257, mmioBase := 0x8000, irqLine := 3, denied := [⟨0, 4, true, false⟩] }

theorem test_wf_platform : tPlat.wf = true := by decide
theorem test_wf_dict_too_small : ({ tPlat with lzwDictMax := 256 } : Platform).wf = false := by decide
theorem test_wf_dict_too_large : ({ tPlat with lzwDictMax := 2 ^ 31 + 1 } : Platform).wf = false := by decide
theorem test_wf_base_unaligned : ({ tPlat with mmioBase := 0x8002 } : Platform).wf = false := by decide
theorem test_wf_range_reversed : ({ tPlat with denied := [⟨4, 0, true, true⟩] } : Platform).wf = false := by decide
theorem test_wf_range_outside : ({ tPlat with denied := [⟨0, 2 ^ 32 + 1, true, true⟩] } : Platform).wf = false := by
  decide
theorem test_wf_halfword : (HostOp.busWrite 0x8000 16 0#32).wf tPlat = false := by decide
theorem test_wf_read_unaligned : (HostOp.busRead 0x8002 32).wf tPlat = false := by decide
theorem test_wf_below_block : (HostOp.busRead 0x7FFC 32).wf tPlat = false := by decide
theorem test_wf_above_block : (HostOp.busRead 0xC000 32).wf tPlat = false := by decide
theorem test_wf_last_word : (HostOp.busRead 0xBFFC 32).wf tPlat = true := by decide
theorem test_wf_read_is_byte : (HostOp.busReadIs 0x8000 8 0#32).wf tPlat = false := by decide
theorem test_wf_read_is_below_block : (HostOp.busReadIs 0x7FFC 32 0#32).wf tPlat = false := by decide
theorem test_wf_store_outside : (HostOp.memStore (2 ^ 32) 0#8).wf tPlat = false := by decide
theorem test_wf_load_outside : (HostOp.memLoad (2 ^ 32)).wf tPlat = false := by decide
theorem test_wf_turn : (Turn.host (.memLoad (2 ^ 32))).wf tPlat = false ∧ Turn.reset.wf tPlat = true := by decide
theorem test_wf_mem_directive : (Stmt.mem (2 ^ 32 - 1) [0#8, 0#8]).wf = false ∧ (Stmt.mem (2 ^ 32 - 1) [0#8]).wf = true := by
  decide
theorem test_wf_instr : ∀ i : Instr, i.wf = true := by intro i; cases i <;> rfl

/-! ### Command words, bit by bit: `[31:8] RSVD` zero, `[7:0] OPC` (R200, R202) -/

theorem test_word_nop : decode 0b00000000000000000000000000000000#32 = .ok .nop := by rfl
theorem test_word_clear : decode 0b00000000000000000000000000000001#32 = .ok .clear := by rfl
theorem test_word_freqCount : decode 0b00000000000000000000000000010000#32 = .ok .freqCount := by rfl
theorem test_word_treeBuild : decode 0b00000000000000000000000000010001#32 = .ok .treeBuild := by rfl
theorem test_word_codeGen : decode 0b00000000000000000000000000010010#32 = .ok .codeGen := by rfl
theorem test_word_treeSerialize : decode 0b00000000000000000000000000010011#32 = .ok .treeSerialize := by rfl
theorem test_word_treeDeserialize : decode 0b00000000000000000000000000010100#32 = .ok .treeDeserialize := by rfl
theorem test_word_bitPack : decode 0b00000000000000000000000000010101#32 = .ok .bitPack := by rfl
theorem test_word_bitUnpack : decode 0b00000000000000000000000000010110#32 = .ok .bitUnpack := by rfl
theorem test_word_hufCompress : decode 0b00000000000000000000000000100000#32 = .ok .hufCompress := by rfl
theorem test_word_hufDecompress : decode 0b00000000000000000000000000100001#32 = .ok .hufDecompress := by rfl
theorem test_word_lzwCompress : decode 0b00000000000000000000000000110000#32 = .ok .lzwCompress := by rfl
theorem test_word_lzwDecompress : decode 0b00000000000000000000000000110001#32 = .ok .lzwDecompress := by rfl
theorem test_word_reserved_bit : decode 0b10000000000000000000000000010000#32 = .error .reservedBits := by rfl
theorem test_word_reserved_low : decode 0b00000000000000000000000100000000#32 = .error .reservedBits := by rfl
theorem test_word_unassigned : decode 0b00000000000000000000000000000010#32 = .error .unassignedOpcode := by rfl
theorem test_table_word : decodeTableWord 32 0x31 = some .lzwDecompress ∧ decodeTableWord 8 0x20 = some .hufCompress := by
  decide
theorem test_fetch_word : step (State.reset.withFetchWord 32 0x01) = execClear (State.reset.withFetchWord 32 0x01) := by
  rfl

/-! ### Small states -/

/-- A command just launched, SRC the bytes given at 0x10, DST the last `cap` bytes of memory. -/
def launched (i : Instr) (src : List Byte) (cap : Nat) (orig : Nat := 0) (nogain : Bool := false) : State :=
  State.launch (encode i)
    { State.reset with
      mem := Memory.poke [] 0x10 src
      ctrl := { nogainEn := nogain, irqEn := true }
      srcAddr := 0x10#32
      srcLen := BitVec.ofNat 32 src.length
      dstAddr := BitVec.ofNat 32 (2 ^ 32 - cap)
      dstCap := BitVec.ofNat 32 cap
      origLen := BitVec.ofNat 32 orig }

/-- The state with the tree of R402's example: ROOT 4 = (0x41, (0x43, 0x42)). -/
def withTree (s : State) : State :=
  s.setTree
    (setNode (setNode (setNode (setNode (setNode zeroNodes
      0 ⟨5#32, true, 0x41#8, 0#9, 0#9⟩) 1 ⟨3#32, true, 0x42#8, 0#9, 0#9⟩) 2 ⟨2#32, true, 0x43#8, 0#9, 0#9⟩)
      3 ⟨5#32, false, 0#8, 2#9, 1#9⟩) 4 ⟨10#32, false, 0#8, 0#9, 3#9⟩) 4 3

/-- The state with the one-leaf tree of a value. -/
def withLeaf (v : Byte) (s : State) : State := s.setTree (setNode zeroNodes 0 ⟨0#32, true, v, 0#9, 0#9⟩) 0 1

/-- The tree of R402's example. -/
def tTree : Tree := .node (.leaf 0x41#8) (.node (.leaf 0x43#8) (.leaf 0x42#8))

/-- The state with that tree and its code table. -/
def withCodes (s : State) : State := (withTree s).setCodes tTree.codeTable.len tTree.codeTable.bits

/-- "AAAAABBBCC", the input of the spec's examples. -/
def exampleIn : List Byte :=
  [0x41#8, 0x41#8, 0x41#8, 0x41#8, 0x41#8, 0x42#8, 0x42#8, 0x42#8, 0x43#8, 0x43#8]

/-- Its Huffman container (R802). -/
def exampleHuf : List Byte :=
  [0x00#8, 0x00#8, 0x00#8, 0x0A#8, 0x00#8, 0x03#8, 0x50#8, 0x54#8, 0x3A#8, 0x10#8, 0x83#8, 0xFA#8]

/-- The next state, when there is one, meets `p`. -/
def nextMeets (o : Host.Outcome State Fault Refusal) (p : State → Bool) : Bool :=
  match o with
  | .next t => p t
  | .fault _ => false
  | .refused _ => false

/-- The state ended without error (R303) and reports `n`. -/
def doneWith (n : Nat) (t : State) : Bool :=
  decide (t.status.busy = false) && t.status.done && decide (t.status.ecode = 0#4) && decide (t.resultLen.toNat = n)

/-- The state ended with the error code `e` and reports `n`. -/
def errWith (e : BitVec 4) (n : Nat) (t : State) : Bool :=
  decide (t.status.busy = false) && t.status.err && decide (t.status.ecode = e) && decide (t.resultLen.toNat = n)

/-- The bytes at the latched DST_ADDR. -/
def dstBytes (n : Nat) (t : State) : List Byte := t.mem.peek t.dstA n

/-! ### The spec's examples -/

/-- R310's example: from reset, NOP leaves STATUS = 0x00000002 and RESULT_LEN = 0. -/
theorem test_nop : nextMeets (step (State.reset.withFetchWord 32 0)) (fun t =>
    decide (regValue t .status = 0x00000002#32) && decide (regValue t .resultLen = 0#32)) = true := by decide +kernel
/-- R312's example: after CLEAR, LEAF_COUNT = 0 and STATUS = 0x00000002. -/
theorem test_clear : nextMeets (exec .clear (withCodes (launched .clear [] 0))) (fun t =>
    decide (regValue t .status = 0x00000002#32) && decide (regValue t .leafCount = 0#32)) = true := by decide +kernel
/-- R400's example. -/
theorem test_freqCount : nextMeets (exec .freqCount (launched .freqCount exampleIn 0)) (fun t =>
    doneWith 0 t && decide (regValue t (.freq 0x41#8) = 5#32) && decide (regValue t (.freq 0x42#8) = 3#32) &&
      decide (regValue t (.freq 0x43#8) = 2#32) && decide (regValue t (.freq 0#8) = 0#32)) = true := by decide +kernel
/-- R402's example: the tree of "AAAAABBBCC". -/
theorem test_treeBuild : nextMeets (exec .treeBuild (State.setFreq (countBytes zeroFreq exampleIn)
    (launched .treeBuild [] 0))) (fun t =>
    doneWith 0 t && decide (t.tree = some tTree) && decide (t.root = 4#9) && decide (t.nodeCount = 5#10)) = true := by
  decide +kernel
/-- R1105: TREE_BUILD right after reset fails with EMPTY_INPUT. -/
theorem test_treeBuild_empty : nextMeets (exec .treeBuild (launched .treeBuild [] 0)) (errWith 1#4 0) = true := by
  decide +kernel
/-- R501's example: the codes "0", "10" and "11". -/
theorem test_codeGen : nextMeets (exec .codeGen (withTree (launched .codeGen [] 0))) (fun t =>
    doneWith 0 t && decide (codeOf t.codeLen t.codeBits 0x41#8 = [false]) &&
      decide (codeOf t.codeLen t.codeBits 0x43#8 = [true, false]) &&
      decide (regValue t (.codeBits 0x42#8 0) = 3#32)) = true := by decide +kernel
/-- R601's example. -/
theorem test_treeSerialize : nextMeets (exec .treeSerialize (withTree (launched .treeSerialize [] 6))) (fun t =>
    doneWith 6 t && decide (dstBytes 6 t = [0x00#8, 0x03#8, 0x50#8, 0x54#8, 0x3A#8, 0x10#8])) = true := by
  decide +kernel
/-- R612's example. -/
theorem test_treeDeserialize : nextMeets (exec .treeDeserialize
    (launched .treeDeserialize [0x00#8, 0x03#8, 0x50#8, 0x54#8, 0x3A#8, 0x10#8] 0)) (fun t =>
    doneWith 6 t && decide (t.root = 0#9) && decide (t.nodeCount = 5#10) &&
      decide (nodeAt t.nodes 2 = ⟨0#32, false, 0#8, 3#9, 4#9⟩) && decide ((nodeAt t.nodes 3).value = 0x43#8)) = true := by
  decide +kernel
/-- R612: a set padding bit is CORRUPT_TREE. -/
theorem test_treeDeserialize_padding : nextMeets (exec .treeDeserialize
    (launched .treeDeserialize [0x00#8, 0x03#8, 0x50#8, 0x54#8, 0x3A#8, 0x11#8] 0)) (errWith 3#4 0) = true := by
  decide +kernel
/-- R702's example. -/
theorem test_bitPack : nextMeets (exec .bitPack (withCodes (launched .bitPack exampleIn 2))) (fun t =>
    doneWith 2 t && decide (dstBytes 2 t = [0x83#8, 0xFA#8])) = true := by decide +kernel
/-- R712's example. -/
theorem test_bitUnpack : nextMeets (exec .bitUnpack (withTree (launched .bitUnpack [0x83#8, 0xFA#8] 10 10))) (fun t =>
    doneWith 10 t && decide (dstBytes 10 t = exampleIn)) = true := by decide +kernel
/-- R712's example with ORIG_LEN = 9: two bits are left over. -/
theorem test_bitUnpack_short : nextMeets (exec .bitUnpack (withTree (launched .bitUnpack [0x83#8, 0xFA#8] 10 9)))
    (errWith 5#4 0) = true := by decide +kernel
/-- R802's example with NOGAIN_EN = 0. -/
theorem test_hufCompress : nextMeets (exec .hufCompress (launched .hufCompress exampleIn 12)) (fun t =>
    doneWith 12 t && decide (t.mem.peek (launched .hufCompress exampleIn 12).dstA 12 = exampleHuf) &&
      decide (t.origLen = 10#32)) = true := by decide +kernel
/-- R812's example. -/
theorem test_hufDecompress : nextMeets (exec .hufDecompress (launched .hufDecompress exampleHuf 10)) (fun t =>
    doneWith 10 t && decide (dstBytes 10 t = exampleIn) && decide (t.leafCount = 3#9)) = true := by decide +kernel
/-- R902's example: "ABABABA". -/
theorem test_lzwCompress : nextMeets (exec .lzwCompress (launched .lzwCompress
    [0x41#8, 0x42#8, 0x41#8, 0x42#8, 0x41#8, 0x42#8, 0x41#8] 6 0 true)) (fun t =>
    doneWith 6 t && decide (dstBytes 6 t = [0x09#8, 0x12#8, 0x09#8, 0x0A#8, 0x01#8, 0x02#8]) &&
      decide (t.codeWidth = 9#5) && decide (t.maxCode = 258#32) && decide (t.codeCount = 4#32) &&
      decide (t.dictSize = 259#32)) = true := by decide +kernel
/-- R912's example: the second code is the one being defined (R911). -/
theorem test_lzwDecompress : nextMeets (exec .lzwDecompress
    (launched .lzwDecompress [0x09#8, 0x04#8, 0x83#8, 0x00#8] 3)) (fun t =>
    doneWith 3 t && decide (dstBytes 3 t = [0x41#8, 0x41#8, 0x41#8]) && decide (t.dictSize = 257#32)) = true := by
  decide +kernel
/-- R912's corner case: a wider code width still decodes. -/
theorem test_lzwDecompress_wide : nextMeets (exec .lzwDecompress
    (launched .lzwDecompress [0x08#8, 0x01#8, 0x41#8] 1)) (fun t =>
    doneWith 1 t && decide (dstBytes 1 t = [0x41#8])) = true := by decide +kernel
/-- R80: NODE_LINK's fields, from the bits of the word. -/
theorem test_link_word : linkWord ⟨0#32, true, 0xFF#8, 1#9, 2#9⟩ = 0b10000011111111000000010000000001#32 := by decide
/-- R56: a write of 1 clears DONE, ERR and DROPPED. -/
theorem test_w1c : regValue ((State.reset.setStatus ⟨false, true, false, true, true, false, 5#4⟩).hostWrite
    (some .status) 0xFFFFFFFF#32) .status = 0x00000510#32 := by decide
/-- R213: the encoding of a program is its MMIO writes. -/
theorem test_script : encodeScript [.src 0x10#32 3#32, .run .freqCount, .r32 .status, .ack] =
    [(0x10, 0x10#32), (0x14, 3#32), (0x0C, 0x10#32), (0x08, 0x0E#32)] := by decide
/-- R213: `mem` is about the start state, wherever it stands in the script, and makes no access and no MMIO write. -/
theorem test_script_mem :
    (State.reset.withScript [.cmd .freqCount, .mem 0x10 [0x41#8, 0#8, 0x42#8], .mem 0x12 [0x43#8]]).mem =
        [(0x10, 0x41#8), (0x12, 0x43#8)] ∧
      (State.reset.withScript [.cmd .freqCount, .mem 0x10 [0x41#8]]).turns = [.host (.busWrite 0x0C 32 0x10#32)] ∧
      encodeScript [.mem 0x10 [0x41#8]] = [] := by decide
/-- R213: `r32 ID -> v` holds for ID's value and fails for another. -/
theorem test_script_read_is :
    nextMeets (step (State.reset.withScript [.r32Is .id 0x484C0001#32])) (fun t => t.claimsMet) = true ∧
      nextMeets (step (State.reset.withScript [.r32Is .id 0x484C0000#32])) (fun t => !t.claimsMet) = true := by
  decide +kernel

/-! ### States that meet the hypotheses of the statements -/

theorem nextMeets_exists {o : Host.Outcome State Fault Refusal} {p : State → Bool} (h : nextMeets o p = true) :
    ∃ t, o = .next t ∧ p t = true := by
  cases o with
  | next t => exact ⟨t, rfl, h⟩
  | fault f => cases h
  | refused r => cases h

theorem wit_IllegalWordFailsAtOnce :
    State.reset.status.busy = false ∧ (∀ i, (0x00000002#32 : Word) ≠ encode i) ∧ State.reset.turns = [] :=
  ⟨rfl, fun i => by cases i <;> decide, rfl⟩
theorem wit_IllegalWordFailsAtOnce_scheduled :
    ({ State.reset with turns := [.engine, .reset] } : State).status.busy = false ∧
      (∀ i, (0x00000100#32 : Word) ≠ encode i) ∧
      ({ State.reset with turns := [.engine, .reset] } : State).turns = .engine :: [.reset] :=
  ⟨rfl, fun i => by cases i <;> decide, rfl⟩
theorem wit_StepRunsLatchedCommand :
    (launched .nop [] 0).status.busy = true ∧ decode (launched .nop [] 0).latch.cmd = .ok .nop ∧
      Instr.nop.wf = true ∧ (launched .nop [] 0).turns = [] := ⟨rfl, rfl, rfl, rfl⟩
/-- The idle engine, the host and the reset input: a state with each turn, before any launch. -/
theorem wit_StepRunsLatchedCommand_idle :
    State.reset.status.busy = false ∧ State.reset.turns = [] ∧
      ∀ tn ∈ [Turn.engine, .host .waitIdle, .reset],
        ({ State.reset with turns := [tn] } : State).status.busy = false := ⟨rfl, rfl, fun _ _ => rfl⟩
theorem wit_StepRunsLatchedCommand_scheduled :
    ({ launched .clear [] 0 with turns := [.engine] } : State).status.busy = true ∧
      decode ({ launched .clear [] 0 with turns := [.engine] } : State).latch.cmd = .ok .clear :=
  ⟨rfl, show decode (encode .clear) = .ok .clear by rfl⟩
theorem wit_LaunchLatchesArguments : State.reset.status.busy = false := rfl
theorem wit_BusyChangesOnlyAsStated_falls :
    (launched .nop [] 0).status.busy = true ∧
      ∃ t, step (launched .nop [] 0) = .next t ∧ decide (t.status.busy = false) = true :=
  ⟨rfl, nextMeets_exists (by decide +kernel)⟩
theorem wit_BusyChangesOnlyAsStated_rises :
    ∃ t, step { State.reset with turns := [.host (.busWrite 0x000C 32 0#32)] } = .next t ∧
      decide (t.status.busy = true) = true := nextMeets_exists (by decide +kernel)
theorem wit_CommandEndsIdle :
    (launched .nop [] 0).status.done = false ∧ (launched .nop [] 0).status.err = false ∧
      (launched .nop [] 0).disturbed = false ∧ ∃ t, exec .nop (launched .nop [] 0) = .next t :=
  ⟨rfl, rfl, rfl, _, rfl⟩
theorem wit_WindowViolation_src :
    usesSrc .freqCount = true ∧
      2 ^ 32 < ({ State.reset with latch := { State.reset.latch with srcAddr := 0xFFFFFFFF#32, srcLen := 2#32 } } :
        State).latch.srcAddr.toNat + 2 := by decide
theorem wit_WindowViolation_dst :
    usesDst .treeSerialize = true ∧
      2 ^ 32 < ({ State.reset with latch := { State.reset.latch with dstAddr := 0xFFFFFFFF#32, dstCap := 2#32 } } :
        State).latch.dstAddr.toNat + 2 := by decide
/-- Both windows below 2^32, sharing their one boundary byte. -/
theorem wit_WindowViolation_overlap :
    windowsOk .bitPack { State.reset with
      latch := { State.reset.latch with srcAddr := 4#32, srcLen := 2#32, dstAddr := 5#32, dstCap := 1#32 } } = false ∧
    windowsOk .bitPack { State.reset with
      latch := { State.reset.latch with srcAddr := 4#32, srcLen := 2#32, dstAddr := 6#32, dstCap := 1#32 } } = true := by
  decide
theorem wit_CommandsKeepWhatTheyDoNotName : ∃ t, exec .clear (launched .clear [] 0) = .next t := ⟨_, rfl⟩
theorem wit_CommandsWriteOnlyTheirDst :
    (withTree (launched .treeSerialize [] 6)).TreeInv ∧
      ∃ t, exec .treeSerialize (withTree (launched .treeSerialize [] 6)) = .next t ∧ doneWith 6 t = true :=
  ⟨fun _ => by decide +kernel, nextMeets_exists (by decide +kernel)⟩
theorem wit_EarlyErrorsKeepMemory :
    (launched .lzwCompress [] 0).disturbed = false ∧
      ∃ t, exec .lzwCompress (launched .lzwCompress [] 0) = .next t ∧
        decide (t.status.ecode = ErrCode.emptyInput.code) = true :=
  ⟨rfl, nextMeets_exists (by decide +kernel)⟩
/-- A platform that refuses the reads of one byte. -/
def refusing (a : Nat) : Platform := { Platform.atReset with denied := [⟨a, a + 1, true, false⟩] }
/-- A command that completes on a platform that refuses nothing, with its last byte read refused, with its one byte
written refused, and with a byte refused that it neither reads nor writes. -/
theorem wit_EarlyErrorsKeepMemory_platform :
    ∀ d ∈ [DeniedRange.mk 0x11 0x12 true false, ⟨2 ^ 32 - 1, 2 ^ 32, false, true⟩, ⟨0x12, 0x13, true, true⟩],
      let s : State :=
        { withTree (launched .bitUnpack [0x01#8, 0x00#8] 8 8) with plat := { Platform.atReset with denied := [d] } }
      s.disturbed = false ∧ s.treeOk = true ∧ nextMeets (exec .bitUnpack s.unrestricted) (doneWith 8) = true := by
  decide +kernel
/-- A refused read of pass 1, with every write of DST accepted. -/
theorem wit_EarlyErrorsKeepMemory_refusedRead :
    let s : State := { launched .lzwCompress [0x41#8, 0x42#8] 4 with plat := refusing 0x11 }
    s.disturbed = false ∧ allOk s.plat .write s.dstA s.dstN = true ∧ s.status.treeValid = false ∧
      nextMeets (exec .lzwCompress s) (errWith 11#4 0) = true := by decide +kernel
/-- LZW_DECOMPRESS: the first code 256 is unknown; the first pattern finds no room; the first code is not read. -/
theorem wit_EarlyErrorsKeepMemory_firstCode :
    nextMeets (exec .lzwDecompress (launched .lzwDecompress (lzwBytes 9 [256]) 4))
        (fun t => errWith 4#4 0 t && decide (t.codeCount = 1#32)) = true ∧
      nextMeets (exec .lzwDecompress (launched .lzwDecompress (lzwBytes 9 [65]) 0))
        (fun t => errWith 8#4 0 t && decide (t.codeCount = 1#32)) = true ∧
      nextMeets (exec .lzwDecompress { launched .lzwDecompress (lzwBytes 9 [65]) 4 with plat := refusing 0x12 })
        (fun t => errWith 11#4 0 t && decide (t.codeCount = 0#32)) = true ∧ (refusing 0x12).wf = true := by
  decide +kernel
theorem wit_HostWritesFollowBusyRule : (launched .nop [] 0).status.busy = true ∧ State.reset.status.busy = false :=
  ⟨rfl, rfl⟩
/-- The last word of the block, a reserved offset, and a halfword access. -/
theorem wit_RegisterAccessWidthRule :
    State.reset.plat.wf = true ∧ State.reset.plat.mmioBase ≤ 0x3FFC ∧ 0x3FFC < State.reset.plat.mmioBase + 0x4000 ∧
      regAt 0x3FFC = some (.codeBits 0xFF#8 7) ∧ regAt 0x0044 = none ∧ 0x3FFC % 4 = 0 ∧ 0x3FFE % 4 ≠ 0 := by decide
theorem wit_HostReadsWhileBusy : (launched .nop [] 0).status.busy = true ∧ State.reset.status.busy = false :=
  ⟨rfl, rfl⟩
theorem wit_HostStoreIntoRunningWindow :
    (launched .freqCount [0x41#8] 0).mem.wf = true ∧ (launched .freqCount [0x41#8] 0).status.busy = true ∧
      decode (launched .freqCount [0x41#8] 0).latch.cmd = .ok .freqCount ∧
      inWindows .freqCount (launched .freqCount [0x41#8] 0) 0x10 = true ∧
      inWindows .freqCount (launched .freqCount [0x41#8] 0) 0x11 = false := ⟨rfl, rfl, rfl, rfl, rfl⟩
/-- A load from the running DST window's one byte, and from the byte below it. -/
theorem wit_HostStoreIntoRunningWindow_load :
    (launched .bitPack [0x41#8] 1).status.busy = true ∧
      decode (launched .bitPack [0x41#8] 1).latch.cmd = .ok .bitPack ∧
      inDst .bitPack (launched .bitPack [0x41#8] 1) (2 ^ 32 - 1) = true ∧
      inDst .bitPack (launched .bitPack [0x41#8] 1) (2 ^ 32 - 2) = false := by
  refine ⟨rfl, show decode (encode .bitPack) = .ok .bitPack by rfl, ?_, ?_⟩ <;> decide
theorem wit_DisturbedCommandStillCompletes :
    ((launched .bitPack [0x41#8] 1).hostStore 0x10 0x42#8).disturbed = true ∧ usesSrc .bitPack = true ∧
      ((launched .bitPack [0x41#8] 1).hostStore 0x10 0x42#8).mem.wf = true := by decide
theorem wit_ResetEventKeepsMemory :
    ({ launched .bitPack [0x41#8] 1 with turns := [.reset] } : State).mem.wf = true ∧
      ({ launched .bitPack [0x41#8] 1 with turns := [.reset] } : State).status.busy = true ∧
      inDst .bitPack { launched .bitPack [0x41#8] 1 with turns := [.reset] } 0xFFFFFFFF = true := by decide
theorem wit_FreqCountCompletes :
    (launched .freqCount exampleIn 0).disturbed = false ∧
      windowsOk .freqCount (launched .freqCount exampleIn 0) = true ∧ (launched .freqCount exampleIn 0).srcN ≠ 0 ∧
      (launched .freqCount exampleIn 0).SrcReadable := by unfold State.SrcReadable; decide
/-- A platform that refuses reads of the second SRC byte. -/
theorem wit_FreqCountErrors :
    (launched .freqCount [] 0).srcN = 0 ∧ (launched .freqCount [1#8, 2#8] 0).srcN = 2 ∧
      allOk { tPlat with denied := [⟨0x11, 0x12, true, false⟩] } .read 0x10 1 = true ∧
      memOk { tPlat with denied := [⟨0x11, 0x12, true, false⟩] } .read (0x10 + 1) = false := by decide
theorem wit_TakeMinExtractsLeastKey : takeMin zeroNodes [5, 3, 4] = some (3, [5, 4]) ∧ takeMin zeroNodes [] = none := by
  decide +kernel
/-- Two byte values of equal frequency. -/
def twoFreq : State := State.setFreq (setByte (setByte zeroFreq 0x00#8 7#32) 0xFF#8 7#32) (launched .treeBuild [] 0)
theorem wit_TreeBuildCompletes :
    atByte twoFreq.freq 0xFF#8 ≠ 0#32 ∧ (allBytes.map fun b => (atByte twoFreq.freq b).toNat).sum ≤ 2 ^ 32 - 1 := by
  decide +kernel
theorem twoFreq_syms : symsOf twoFreq.freq = [0x00#8, 0xFF#8] := by decide +kernel
theorem wit_TreeBuildMergesTheTwoLeast :
    (symsOf twoFreq.freq).length ≤ 2 ∧ 2 < 2 * (symsOf twoFreq.freq).length - 1 ∧
      ∃ t, exec .treeBuild twoFreq = .next t ∧ decide (t.status.ecode = 0#4) = true := by
  rw [twoFreq_syms]
  exact ⟨by decide, by decide, nextMeets_exists (by decide +kernel)⟩
theorem wit_TreeBuildYieldsFullTree :
    ∃ t, exec .treeBuild twoFreq = .next t ∧ decide (t.status.ecode = 0#4) = true :=
  wit_TreeBuildMergesTheTwoLeast.2.2
theorem wit_TreeBuildPrechecks_empty : ∀ b, atByte State.reset.freq b = 0#32 := by
  intro b
  simp [atByte, State.reset]
/-- The least sum past 32 bits. -/
theorem wit_TreeBuildPrechecks_limit :
    2 ^ 32 - 1 < (allBytes.map fun b =>
      (atByte (setByte (setByte zeroFreq 0#8 0xFFFFFFFF#32) 1#8 1#32) b).toNat).sum := by decide +kernel
theorem wit_CodeGenCompletes :
    (withTree (launched .codeGen [] 0)).TreeInv ∧ (withTree (launched .codeGen [] 0)).status.treeValid = true :=
  ⟨fun _ => by decide +kernel, rfl⟩
theorem wit_CodesArePrefixFree :
    (withTree (launched .codeGen [] 0)).TreeInv ∧ (withTree (launched .codeGen [] 0)).status.treeValid = true ∧
      ∃ t, exec .codeGen (withTree (launched .codeGen [] 0)) = .next t ∧
        (decide (atByte t.codeLen 0x41#8 ≠ 0#8) && decide (atByte t.codeLen 0x42#8 ≠ 0#8)) = true :=
  ⟨fun _ => by decide +kernel, rfl, nextMeets_exists (by decide +kernel)⟩
/-- The one-leaf clause; the other one is met by the state of `wit_CodesArePrefixFree`. -/
theorem wit_CodeLengthsFillTheTree_leaf :
    (withLeaf 0x41#8 (launched .codeGen [] 0)).TreeInv ∧
      (withLeaf 0x41#8 (launched .codeGen [] 0)).status.treeValid = true ∧
      (withLeaf 0x41#8 (launched .codeGen [] 0)).leafCount.toNat = 1 ∧
      ∃ t, exec .codeGen (withLeaf 0x41#8 (launched .codeGen [] 0)) = .next t ∧ doneWith 0 t = true :=
  ⟨fun _ => by decide +kernel, rfl, rfl, nextMeets_exists (by decide +kernel)⟩
theorem wit_MissingPrerequisite : ∀ i ∈ [Instr.treeSerialize, .codeGen, .bitUnpack, .bitPack],
    (launched i [0x41#8] 1).disturbed = false ∧ windowsOk i (launched i [0x41#8] 1) = true ∧
      (launched i [0x41#8] 1).status.treeValid = false ∧ (launched i [0x41#8] 1).status.codesValid = false := by decide
/-- A DST window of exactly the bytes needed, ending at address 2^32 - 1. -/
theorem wit_TreeSerializeCompletes :
    (withTree (launched .treeSerialize [] 6)).TreeInv ∧ (withTree (launched .treeSerialize [] 6)).mem.wf = true ∧
      windowsOk .treeSerialize (withTree (launched .treeSerialize [] 6)) = true ∧
      2 + treeBytes (withTree (launched .treeSerialize [] 6)).leafCount.toNat =
        (withTree (launched .treeSerialize [] 6)).dstN ∧
      (withTree (launched .treeSerialize [] 6)).DstWritable 6 :=
  ⟨fun _ => by decide +kernel, rfl, rfl, rfl, rfl⟩
/-- One DST byte missing; and a platform that refuses the write of the last one. -/
theorem wit_TreeSerializeCompletes_errors :
    (let s := withTree (launched .treeSerialize [] 5)
     s.disturbed = false ∧ windowsOk .treeSerialize s = true ∧ s.status.treeValid = true ∧
      s.dstN + 1 = 2 + treeBytes s.leafCount.toNat) ∧
    (let s : State :=
      { withTree (launched .treeSerialize [] 6) with plat := { tPlat with denied := [⟨2 ^ 32 - 1, 2 ^ 32, false, true⟩] } }
     s.treeOk = true ∧ s.mem.wf = true ∧ windowsOk .treeSerialize s = true ∧ s.dstN = 2 + treeBytes s.leafCount.toNat ∧
      allOk s.plat .write s.dstA 6 = false) := by decide +kernel
/-- A serialization followed by another byte. -/
theorem wit_TreeDeserializeRebuildsTree :
    let s := launched .treeDeserialize [0x00#8, 0x03#8, 0x50#8, 0x54#8, 0x3A#8, 0x10#8, 0xFF#8] 0
    s.disturbed = false ∧ windowsOk .treeDeserialize s = true ∧ tTree.leaves.length ≤ 256 ∧ tTree.leaves.Nodup ∧
      2 + treeBytes tTree.leaves.length ≤ s.srcN ∧
      allOk s.plat .read s.srcA (2 + treeBytes tTree.leaves.length) = true ∧
      s.mem.peek s.srcA (2 + treeBytes tTree.leaves.length) = ser tTree.leaves.length tTree := by decide
theorem wit_AcceptedSerializationIsCanonical :
    ∃ t, exec .treeDeserialize (launched .treeDeserialize [0x00#8, 0x01#8, 0xA0#8, 0x80#8] 0) = .next t ∧
      decide (t.status.ecode = 0#4) = true := nextMeets_exists (by decide +kernel)
/-- One byte; a count of 0; a count of 257; a traversal one byte too short. -/
theorem wit_TruncatedSerializationIsCorrupt :
    (launched .treeDeserialize [0x00#8] 0).srcN = 1 ∧
      beNat ((launched .treeDeserialize [0x00#8, 0x00#8] 0).mem.peek 0x10 2) = 0 ∧
      beNat ((launched .treeDeserialize [0x01#8, 0x01#8] 0).mem.peek 0x10 2) = 257 ∧
      (launched .treeDeserialize [0x00#8, 0x01#8, 0xA0#8] 0).srcN < 2 + treeBytes 1 := by decide
/-- Past the header checks: a set padding bit; two leaves of one value; a third node where one belongs (the bytes of
`no_tree_of_one`). Each ends in CORRUPT_TREE. -/
theorem wit_TruncatedSerializationIsCorrupt_traversal :
    ∀ p ∈ [[0x00#8, 0x01#8, 0xA0#8, 0x81#8], [0x00#8, 0x02#8, 0x50#8, 0x68#8, 0x20#8],
        [0x00#8, 0x01#8, 0x20#8, 0x80#8]],
      let s := launched .treeDeserialize p 0
      s.disturbed = false ∧ windowsOk .treeDeserialize s = true ∧
        2 + treeBytes (beNat (s.mem.peek s.srcA 2)) = s.srcN ∧ s.src = p ∧
        allOk s.plat .read s.srcA s.srcN = true ∧ nextMeets (exec .treeDeserialize s) (errWith 3#4 0) = true := by
  decide +kernel
theorem wit_PackedStreamRoundTrip : unpack [0x01#8] = some [] ∧ unpack [0x01#8, 0x80#8] = some (bin 8 0x80) ∧
    (0x80#8 : Byte) ≠ 0#8 := by decide
theorem wit_BitPackCompletes :
    let s := withCodes (launched .bitPack [0x41#8, 0x43#8, 0x42#8] 1)
    s.mem.wf = true ∧ s.disturbed = false ∧ windowsOk .bitPack s = true ∧ s.status.codesValid = true ∧ s.srcN ≠ 0 ∧
      s.SrcReadable ∧ (∀ b ∈ s.src, atByte s.codeLen b ≠ 0#8) ∧
      packedLen (s.src.map fun b => (atByte s.codeLen b).toNat).sum = s.dstN ∧ s.DstWritable s.dstN := by
  unfold State.SrcReadable State.DstWritable
  decide +kernel
theorem wit_BitPackErrors :
    (withCodes (launched .bitPack [] 1)).srcN = 0 ∧
      atByte (withCodes (launched .bitPack [0x44#8] 1)).codeLen 0x44#8 = 0#8 ∧
      (withCodes (launched .bitPack exampleIn 1)).dstN <
        packedLen ((withCodes (launched .bitPack exampleIn 1)).src.map fun b =>
          (atByte (withCodes (launched .bitPack exampleIn 1)).codeLen b).toNat).sum := by decide +kernel
theorem wit_BitUnpackCompletes :
    let s := withTree (launched .bitUnpack [0x83#8, 0xFA#8] 10 10)
    s.treeOk = true ∧ s.mem.wf = true ∧ s.disturbed = false ∧ windowsOk .bitUnpack s = true ∧
      s.status.treeValid = true ∧ s.tree = some tTree ∧ s.SrcReadable ∧ (∀ b ∈ exampleIn, b ∈ tTree.leaves) ∧
      unpack s.src = some (tTree.payload exampleIn) ∧ s.latch.origLen.toNat = exampleIn.length ∧
      exampleIn.length = s.dstN ∧ s.DstWritable exampleIn.length := by
  unfold State.SrcReadable State.DstWritable
  decide +kernel
theorem tTree_codes : ∀ b c, tTree.code b = some c →
    b = 0x41#8 ∧ c = [false] ∨ b = 0x43#8 ∧ c = [true, false] ∨ b = 0x42#8 ∧ c = [true, true] := by
  intro b c h
  by_cases h1 : (0x41#8 : Byte) = b
  · subst h1; exact .inl ⟨rfl, (Option.some.inj h).symm⟩
  by_cases h2 : (0x43#8 : Byte) = b
  · subst h2; exact .inr (.inl ⟨rfl, (Option.some.inj h).symm⟩)
  by_cases h3 : (0x42#8 : Byte) = b
  · subst h3; exact .inr (.inr ⟨rfl, (Option.some.inj h).symm⟩)
  · simp [tTree, Tree.code, Tree.path, h1, h2, h3] at h
/-- "A" and then the first bit of a code of two. -/
theorem tTree_splits : tTree.splits [false, true] [0x41#8] [true] := by
  refine ⟨by decide, by decide, fun b c h => ?_⟩
  rcases tTree_codes b c h with ⟨-, rfl⟩ | ⟨-, rfl⟩ | ⟨-, rfl⟩ <;> decide
theorem tTree_splits_all : tTree.splits (tTree.payload exampleIn) exampleIn [] := by
  refine ⟨by decide, by decide, fun b c h => ?_⟩
  rcases tTree_codes b c h with ⟨-, rfl⟩ | ⟨-, rfl⟩ | ⟨-, rfl⟩ <;> decide
/-- The state before each BIT_UNPACK error: a valid tree, readable and writable windows. -/
theorem wit_BitUnpackWrongLengthIsMismatch :
    ∀ p ∈ [([0x83#8, 0xFA#8], 9, 11), ([0x83#8, 0xFA#8], 11, 11), ([0x05#8], 1, 1), ([0x83#8, 0xFA#8], 10, 9),
        ([0x00#8], 1, 1), ([], 1, 1), ([0x01#8], 0, 0)],
      let s := withTree (launched .bitUnpack p.1 p.2.2 p.2.1)
      s.treeOk = true ∧ s.mem.wf = true ∧ s.disturbed = false ∧ windowsOk .bitUnpack s = true ∧
        s.tree = some tTree ∧ s.src = p.1 ∧ s.latch.origLen.toNat = p.2.1 ∧ s.dstN = p.2.2 ∧
        allOk s.plat .read s.srcA s.srcN = true ∧ allOk s.plat .write s.dstA s.dstN = true := by decide +kernel
/-- One symbol more than asked, one fewer, and a payload that ends inside a code; a DST window one byte short; a first byte
0; an empty stream; under a one-leaf tree three bits for two symbols. -/
theorem wit_StreamRefused :
    StreamRefused tTree 9 11 [0x83#8, 0xFA#8] .lengthMismatch 0 true ∧
      StreamRefused tTree 11 11 [0x83#8, 0xFA#8] .lengthMismatch 0 true ∧
      StreamRefused tTree 1 1 [0x05#8] .lengthMismatch 0 true ∧
      StreamRefused tTree 10 9 [0x83#8, 0xFA#8] .outOfSpace 10 false ∧
      StreamRefused tTree 1 1 [0x00#8] .format 0 false ∧ StreamRefused tTree 1 1 [] .format 0 false ∧
      StreamRefused (.leaf 0x41#8) 2 2 [0x0D#8] .lengthMismatch 0 true :=
  ⟨.inr (.inr (.inr ⟨rfl, rfl, by decide, _, _, _, rfl, tTree_splits_all, by decide, rfl⟩)),
    .inr (.inr (.inr ⟨rfl, rfl, by decide, _, _, _, rfl, tTree_splits_all, by decide, rfl⟩)),
    .inr (.inr (.inr ⟨rfl, rfl, by decide, _, _, _, rfl, tTree_splits, by decide, rfl⟩)),
    .inr (.inl (by decide)), .inr (.inr (.inl (by decide))), .inl (by decide),
    .inr (.inr (.inr ⟨rfl, rfl, by decide, _, _, _, rfl, ⟨rfl, rfl⟩, by decide, rfl⟩))⟩
theorem wit_OneLeafSymbolsTakeOneBit :
    let s := withLeaf 0x41#8 (launched .bitUnpack [0x0D#8] 3 3)
    s.treeOk = true ∧ s.mem.wf = true ∧ windowsOk .bitUnpack s = true ∧ s.tree = some (.leaf 0x41#8) ∧
      unpack s.src = some [true, false, true] ∧ s.latch.origLen.toNat = 3 ∧ 3 ≤ s.dstN ∧
      allOk s.plat .read s.srcA s.srcN = true ∧ allOk s.plat .write s.dstA 3 = true := by decide +kernel
theorem tree_of_ten : treeOfBytes (List.replicate 10 0x41#8) = some (.leaf 0x41#8) := by decide +kernel
theorem tree_of_twelve : treeOfBytes (List.replicate 12 0x41#8) = some (.leaf 0x41#8) := by decide +kernel
/-- A container of 10 bytes, exactly the DST window, for 12 equal bytes, with the no-gain policy off and on. -/
theorem wit_HufCompressWritesContainer :
    ∀ p ∈ [false, true],
      let s := launched .hufCompress (List.replicate 12 0x41#8) 10 0 p
      s.mem.wf = true ∧ s.disturbed = false ∧ windowsOk .hufCompress s = true ∧ s.srcN ≠ 0 ∧
        s.src = List.replicate 12 0x41#8 ∧ s.latch.nogainEn = p ∧
        (hufContainer (.leaf 0x41#8) s.src).length < s.srcN ∧
        (hufContainer (.leaf 0x41#8) s.src).length = s.dstN ∧ allOk s.plat .read s.srcA s.srcN = true ∧
        allOk s.plat .write s.dstA s.dstN = true := by decide +kernel
/-- A container as long as its 10 equal bytes, with the policy on; one byte of DST missing, with the policy off. Their
tree is `tree_of_ten`. -/
theorem wit_HufCompressRefusals :
    ∀ p ∈ [(10, true), (9, false)],
      let s := launched .hufCompress (List.replicate 10 0x41#8) p.1 0 p.2
      s.disturbed = false ∧ windowsOk .hufCompress s = true ∧ s.srcN ≠ 0 ∧ s.src = List.replicate 10 0x41#8 ∧
        s.latch.nogainEn = p.2 ∧ (hufContainer (.leaf 0x41#8) s.src).length = s.srcN ∧
        (p.2 = false → s.dstN + 1 = (hufContainer (.leaf 0x41#8) s.src).length) ∧
        allOk s.plat .read s.srcA s.srcN = true := by decide +kernel
/-- An empty SRC window, for both compressors. -/
theorem wit_CompressRefusals_empty : ∀ i ∈ [Instr.hufCompress, .lzwCompress],
    (launched i [] 1).disturbed = false ∧ windowsOk i (launched i [] 1) = true ∧ (launched i [] 1).srcN = 0 ∧
      (launched i [] 1).plat.wf = true := by decide
/-- The example's container (its split is `tTree_splits_all`), and a one-leaf tree over payload bits that are not all
0 (its split holds by definition). -/
theorem wit_HufDecompressRestoresInput :
    ∀ q ∈ [(tTree, exampleIn, [0x83#8, 0xFA#8]), (.leaf 0x41#8, [0x41#8, 0x41#8, 0x41#8], [0x0D#8])],
      let s := launched .hufDecompress (be32 q.2.1.length ++ (ser q.1.leaves.length q.1 ++ q.2.2)) q.2.1.length
      s.mem.wf = true ∧ s.disturbed = false ∧ windowsOk .hufDecompress s = true ∧ q.1.leaves.length ≤ 256 ∧
        q.1.leaves.Nodup ∧ s.src = be32 q.2.1.length ++ (ser q.1.leaves.length q.1 ++ q.2.2) ∧
        q.2.1.length = s.dstN ∧ allOk s.plat .read s.srcA s.srcN = true ∧
        allOk s.plat .write s.dstA q.2.1.length = true := by decide +kernel
theorem wit_HufDecompressRestoresInput_splits :
    unpack [0x83#8, 0xFA#8] = some (tTree.payload exampleIn) ∧ unpack [0x0D#8] = some [true, false, true] ∧
      (Machine.Tree.leaf 0x41#8).splits [true, false, true] [0x41#8, 0x41#8, 0x41#8] [] :=
  ⟨by decide, by decide, rfl, rfl⟩
/-- HUF_DECOMPRESS's refusals before the payload: three bytes; a length of 0; a header alone; a leaf count of 257; and
below a count of 1 a traversal that begins with no leaf. -/
theorem wit_HufDecompressRestoresInput_refusals :
    (launched .hufDecompress [0#8, 0#8, 1#8] 1).srcN = 3 ∧
      (∀ p ∈ [[0#8], [0#8, 0#8], [1#8, 1#8, 0#8], [0#8, 1#8, 0xA0#8]],
        let s := launched .hufDecompress (be32 5 ++ p) 5
        s.mem.wf = true ∧ s.disturbed = false ∧ windowsOk .hufDecompress s = true ∧ s.src = be32 5 ++ p ∧
          allOk s.plat .read s.srcA s.srcN = true ∧
          (p.length < 2 ∨ beNat (p.take 2) = 0 ∨ 256 < beNat (p.take 2) ∨
            p.length < 2 + treeBytes (beNat (p.take 2)))) ∧
      beNat ((be32 0 ++ [1#8]).take 4) = 0 := by decide
theorem leaves_pos (t : Tree) : 1 ≤ t.leaves.length := by
  induction t with
  | leaf v => exact Nat.le_refl 1
  | node l r ihl _ => simp only [Tree.leaves, List.length_append]; omega
/-- A leaf count of 1 over a traversal that begins with 0: no tree has that serialization. -/
theorem no_tree_of_one (tr : Tree) (hl : tr.legal) :
    ¬ ser tr.leaves.length tr <+: [0x00#8, 0x01#8, 0x20#8, 0x80#8] := by
  cases tr with
  | leaf v =>
    clear hl
    revert v
    decide
  | node l r =>
    intro h
    have h2 : 2 ≤ (Machine.Tree.node l r).leaves.length := by
      have := leaves_pos l
      have := leaves_pos r
      simp only [Tree.leaves, List.length_append]
      omega
    have h3 := hl.1
    obtain ⟨rest, h⟩ := h
    simp only [ser, be16, List.cons_append, List.cons.injEq] at h
    have h4 := congrArg BitVec.toNat h.1
    have h5 := congrArg BitVec.toNat h.2.1
    simp only [BitVec.toNat_ofNat] at h4 h5
    omega
theorem wit_HufDecompressRestoresInput_noTree_state :
    let s := launched .hufDecompress (be32 5 ++ [0x00#8, 0x01#8, 0x20#8, 0x80#8]) 5
    s.mem.wf = true ∧ s.disturbed = false ∧ windowsOk .hufDecompress s = true ∧
      s.src = be32 5 ++ [0x00#8, 0x01#8, 0x20#8, 0x80#8] ∧ allOk s.plat .read s.srcA s.srcN = true ∧
      2 + treeBytes 1 = [0x00#8, 0x01#8, 0x20#8, 0x80#8].length := by decide
/-- A tree and then an empty payload, a DST window one byte short, and a payload of one symbol fewer (the cases of
`wit_StreamRefused`). -/
theorem wit_HufDecompressRestoresInput_payload :
    ∀ p ∈ [([], 11), ([0x83#8, 0xFA#8], 9), ([0x83#8, 0xFA#8], 11)],
      let s := launched .hufDecompress (be32 11 ++ ser 3 tTree ++ p.1) p.2
      s.mem.wf = true ∧ s.disturbed = false ∧ windowsOk .hufDecompress s = true ∧
        s.src = be32 11 ++ (ser tTree.leaves.length tTree ++ p.1) ∧ s.dstN = p.2 ∧
        allOk s.plat .read s.srcA s.srcN = true ∧ allOk s.plat .write s.dstA s.dstN = true := by decide +kernel
/-- What HUF_COMPRESS of the example wrote is what the second state reads. -/
theorem wit_HuffmanRoundTrip :
    (∃ t, exec .hufCompress (launched .hufCompress exampleIn 12) = .next t ∧ t.status.ecode = 0#4 ∧
      t.mem.peek (launched .hufCompress exampleIn 12).dstA t.resultLen.toNat = exampleHuf) ∧
      (launched .hufDecompress exampleHuf 10).src = exampleHuf ∧
      windowsOk .hufDecompress (launched .hufDecompress exampleHuf 10) = true ∧
      (launched .hufDecompress exampleHuf 10).dstN = exampleIn.length := by
  refine ⟨?_, by decide +kernel, by decide +kernel, by decide⟩
  obtain ⟨t, h, hp⟩ := nextMeets_exists test_hufCompress
  simp only [doneWith, Bool.and_eq_true, decide_eq_true_eq] at hp
  exact ⟨t, h, hp.1.1.1.2, by rw [hp.1.1.2]; exact hp.1.2⟩
theorem wit_LzwEncoderCounts :
    lzwEncode 257 [0x41#8, 0x41#8, 0x41#8] = some ([0x41, 256], { added := [[0x41#8, 0x41#8]] }) := by decide
/-- A dictionary filled to its last entry; the policy off, and on with 8 equal bytes in 6. -/
theorem wit_LzwCompressWritesContainer :
    (let s : State := { launched .lzwCompress [0x41#8, 0x41#8, 0x41#8] 4 with plat := { tPlat with denied := [] } }
     s.mem.wf = true ∧ s.plat.wf = true ∧ windowsOk .lzwCompress s = true ∧ s.srcN ≠ 0 ∧
      lzwEncode s.plat.lzwDictMax s.src = some ([0x41, 256], { added := [[0x41#8, 0x41#8]] }) ∧
      s.latch.nogainEn = false ∧ (lzwBytes (max 1 (bitlen (maxOf [0x41, 256]))) [0x41, 256]).length = s.dstN ∧
      allOk s.plat .read s.srcA s.srcN = true ∧ allOk s.plat .write s.dstA s.dstN = true) ∧
    (let s := launched .lzwCompress (List.replicate 8 0x41#8) 6 0 true
     ∃ ks d, lzwEncode s.plat.lzwDictMax s.src = some (ks, d) ∧
      (lzwBytes (max 1 (bitlen (maxOf ks))) ks).length < s.srcN ∧
      (lzwBytes (max 1 (bitlen (maxOf ks))) ks).length = s.dstN) :=
  ⟨by decide +kernel, [0x41, 256, 257, 256 + 0], _, by rfl, by decide, by decide⟩
/-- One entry more than the dictionary holds; a container as long as the input; one byte of DST missing. -/
theorem wit_LzwCompressRefusals :
    lzwEncode 257 [0x41#8, 0x42#8, 0x43#8] = none ∧
      (lzwBytes 7 [0x41]).length = 2 ∧ lzwEncode (2 ^ 31) [0x41#8] = some ([0x41], Dict.seed) ∧
      (launched .lzwCompress [0x41#8] 2 0 true).srcN ≤ 2 ∧ (launched .lzwCompress [0x41#8] 1).dstN < 2 := by decide
theorem wit_LzwDecompressRestoresInput :
    ∀ w ∈ [9, 31],
      let s : State := { launched .lzwDecompress (lzwBytes w [0x41, 256]) 3 with plat := { tPlat with denied := [] } }
      s.mem.wf = true ∧ s.plat.wf = true ∧ windowsOk .lzwDecompress s = true ∧
        lzwEncode s.plat.lzwDictMax [0x41#8, 0x41#8, 0x41#8] =
          some ([0x41, 256], { added := [[0x41#8, 0x41#8]] }) ∧
        (∀ k ∈ [0x41, 256], k < 2 ^ w) ∧ s.src = lzwBytes w [0x41, 256] ∧ s.dstN = 3 ∧
        allOk s.plat .read s.srcA s.srcN = true ∧ allOk s.plat .write s.dstA 3 = true := by decide +kernel
theorem wit_LzwDecompressRestoresInput_format :
    ∀ p ∈ [[0x09#8], [0x20#8, 0x83#8], [0x00#8, 0x83#8], [0x09#8, 0x00#8], [0x09#8, 0x01#8], [0x09#8, 0x02#8]],
      let s := launched .lzwDecompress p 4
      s.mem.wf = true ∧ s.plat.wf = true ∧ s.disturbed = false ∧ windowsOk .lzwDecompress s = true ∧ s.src = p ∧
        allOk s.plat .read s.srcA s.srcN = true ∧ nextMeets (exec .lzwDecompress s) (errWith 6#4 0) = true := by
  decide +kernel
/-- "A", "AA" of the codes 65 and 256, the second of them the one being defined. -/
theorem decodesTo_AAA : DecodesTo 257 [65, 256] [[0x41#8], [0x41#8, 0x41#8]] := by
  refine ⟨rfl, by decide, fun j k p hk hp => ?_⟩
  match j with
  | 0 => cases hk; cases hp; exact .inl rfl
  | 1 => cases hk; cases hp; exact .inr ⟨rfl, _, rfl, rfl⟩
  | j + 2 => cases hk
/-- "A", "A" of the codes 65 and 65, which no encode emits. -/
theorem decodesTo_A_A : DecodesTo 257 [65, 65] [[0x41#8], [0x41#8]] := by
  refine ⟨rfl, by decide, fun j k p hk hp => ?_⟩
  match j with
  | 0 => cases hk; cases hp; exact .inl rfl
  | 1 => cases hk; cases hp; exact .inl rfl
  | j + 2 => cases hk
/-- The states of `decodesTo_AAA` and `decodesTo_A_A`, DST as long as their patterns. -/
theorem wit_LzwDecompressRestoresInput_decodes :
    ∀ q ∈ [([65, 256], 3), ([65, 65], 2)],
      let s : State := { launched .lzwDecompress (lzwBytes 9 q.1) q.2 with plat := { tPlat with denied := [] } }
      s.mem.wf = true ∧ s.plat.wf = true ∧ windowsOk .lzwDecompress s = true ∧ s.plat.lzwDictMax = 257 ∧
        (∀ k ∈ q.1, k < 2 ^ 9) ∧ s.src = lzwBytes 9 q.1 ∧ s.dstN = q.2 ∧
        nextMeets (exec .lzwDecompress s) (doneWith q.2) = true := by decide +kernel
theorem decodesTo_nil : DecodesTo 257 [] [] := ⟨rfl, by decide, fun _ _ _ h => by cases h⟩
theorem decodesTo_A : DecodesTo 257 [65] [[0x41#8]] := by
  refine ⟨rfl, by decide, fun j k p hk hp => ?_⟩
  match j with
  | 0 => cases hk; cases hp; exact .inl rfl
  | j + 1 => cases hk
/-- The first code past 255, at and above the size; a later one above it; a full dictionary, at a seed and at the size; no
room for the first pattern, and for the one being defined. -/
theorem wit_CodeRefused :
    CodeRefused 257 9 [] [] 256 .unknownCode 256 ∧ CodeRefused 257 9 [] [] 257 .unknownCode 256 ∧
      CodeRefused 257 9 [65] [[0x41#8]] 257 .unknownCode 256 ∧
      CodeRefused 257 9 [65, 256] [[0x41#8], [0x41#8, 0x41#8]] 65 .limit 257 ∧
      CodeRefused 257 9 [65, 256] [[0x41#8], [0x41#8, 0x41#8]] 257 .limit 257 ∧
      CodeRefused 257 0 [] [] 65 .outOfSpace 256 ∧ CodeRefused 257 2 [65] [[0x41#8]] 256 .outOfSpace 257 :=
  ⟨.inl (by decide), .inl (by decide), .inl (by decide), .inr (.inl (by decide)), .inr (.inl (by decide)),
    .inr (.inr ⟨rfl, _, decodesTo_A, rfl, by decide⟩), .inr (.inr ⟨rfl, _, decodesTo_AAA, rfl, by decide⟩)⟩
/-- The states of `wit_CodeRefused`: the codes, one of them failing, and a code after it. -/
theorem wit_LzwDecompressRestoresInput_codes :
    ∀ p ∈ [([256], 9), ([65, 257, 66], 9), ([65, 256, 257, 66], 9), ([65], 0), ([65, 256], 2)],
      let s : State := { launched .lzwDecompress (lzwBytes 9 p.1) p.2 with plat := { tPlat with denied := [] } }
      s.mem.wf = true ∧ s.plat.wf = true ∧ s.disturbed = false ∧ windowsOk .lzwDecompress s = true ∧
        s.src = lzwBytes 9 p.1 ∧ (∀ c ∈ p.1, c < 2 ^ 9) ∧ s.dstN = p.2 ∧ s.plat.lzwDictMax = 257 ∧
        allOk s.plat .read s.srcA s.srcN = true ∧ allOk s.plat .write s.dstA s.dstN = true := by decide +kernel
theorem wit_LzwRoundTrip :
    ∃ t, exec .lzwCompress (launched .lzwCompress [0x41#8, 0x41#8, 0x41#8] 4) = .next t ∧
      (decide (t.status.ecode = 0#4) &&
        decide ((launched .lzwDecompress [0x09#8, 0x04#8, 0x83#8, 0x00#8] 3).src =
          t.mem.peek (launched .lzwCompress [0x41#8, 0x41#8, 0x41#8] 4).dstA t.resultLen.toNat)) = true :=
  nextMeets_exists (by decide +kernel)
/-- A running NOP with a one-leaf tree and its code table. -/
def leafCodes : State :=
  (withLeaf 0x41#8 (launched .nop [] 0)).setCodes (zeroTable.put 0x41#8 [false]).len (zeroTable.put 0x41#8 [false]).bits
theorem leafCodes_codesInv : leafCodes.CodesInv := fun _ => by
  have h : leafCodes.tree = some (.leaf 0x41#8) := by decide +kernel
  refine ⟨rfl, ?_⟩
  simp only [State.codesOk, h]
  simp [leafCodes, Tree.codeTable]
/-- A running command in a state with the whole invariant. -/
theorem wit_Inv_running :
    leafCodes.LifecycleInv ∧ leafCodes.TreeInv ∧
      leafCodes.CodesInv ∧ leafCodes.mem.wf = true ∧
      leafCodes.TurnsWf ∧
      ∃ t, step leafCodes = .next t ∧ doneWith 0 t = true :=
  ⟨by unfold State.LifecycleInv; decide +kernel, fun _ => by decide +kernel, leafCodes_codesInv, rfl, rfl,
    nextMeets_exists (by decide +kernel)⟩

end Sys2Proof.Tests
end

section
/-! PROOF. What the platform's refusals can change: the state on a platform that refuses nothing, and how a part of a
command ends on the platform as it is, beside how it ends there (R13, R1011). -/

namespace Sys2Proof.Machine

/-! ### Ranges of accesses -/

theorem allOk_add (p : Platform) (k : AccessKind) (a n m : Nat) :
    allOk p k a (n + m) = (allOk p k a n && allOk p k (a + n) m) := by
  induction n generalizing a with
  | zero => simp [allOk]
  | succ n ih => simp [Nat.add_right_comm n 1 m, allOk, ih, Bool.and_assoc, Nat.add_assoc, Nat.add_comm 1 n]

theorem allOk_of_le {p : Platform} {k : AccessKind} {a n m : Nat} (hle : n ≤ m) (h : allOk p k a m = true) :
    allOk p k a n = true := by
  obtain ⟨d, rfl⟩ := Nat.exists_eq_add_of_le hle
  rw [allOk_add, Bool.and_eq_true] at h
  exact h.1

theorem State.DstWritable.of_le {s : State} {n m : Nat} (hle : n ≤ m) (h : s.DstWritable m) : s.DstWritable n :=
  allOk_of_le hle h

/-- The bytes read before the first refused access are the first ones of the window (R13). -/
theorem readable_begins_peek (p : Platform) (m : Memory) (a n : Nat) : readable p m a n <+: m.peek a n := by
  obtain ⟨d, hd⟩ := Nat.exists_eq_add_of_le (okCount_le p .read a n)
  have h := peek_add m a (okCount p .read a n) d
  rw [← hd] at h
  exact ⟨_, h.symm⟩

theorem memRead_of_allOk {p : Platform} {m : Memory} {a n : Nat} (h : allOk p .read a n = true) :
    memRead p m a n = some (m.peek a n) := if_pos h

theorem memRead_of_refused {p : Platform} {m : Memory} {a n : Nat} (h : ¬ allOk p .read a n = true) :
    memRead p m a n = none := if_neg h

theorem memRead_cases (p : Platform) (m : Memory) (a n : Nat) :
    memRead p m a n = none ∨ memRead p m a n = some (m.peek a n) := by
  by_cases h : allOk p .read a n = true
  · exact .inr (memRead_of_allOk h)
  · exact .inl (memRead_of_refused h)

/-! ### The platform that refuses nothing -/

/-- The state on the platform `p`. -/
def State.onPlat (p : Platform) (s : State) : State := { s with plat := p }

@[simp] theorem unrestricted_status (s : State) : s.unrestricted.status = s.status := rfl
@[simp] theorem unrestricted_latch (s : State) : s.unrestricted.latch = s.latch := rfl
@[simp] theorem unrestricted_srcA (s : State) : s.unrestricted.srcA = s.srcA := rfl
@[simp] theorem unrestricted_srcN (s : State) : s.unrestricted.srcN = s.srcN := rfl
@[simp] theorem unrestricted_dstN (s : State) : s.unrestricted.dstN = s.dstN := rfl
@[simp] theorem unrestricted_mem (s : State) : s.unrestricted.mem = s.mem := rfl
@[simp] theorem unrestricted_freq (s : State) : s.unrestricted.freq = s.freq := rfl
@[simp] theorem unrestricted_leafCount (s : State) : s.unrestricted.leafCount = s.leafCount := rfl
@[simp] theorem unrestricted_tree (s : State) : s.unrestricted.tree = s.tree := rfl
@[simp] theorem unrestricted_codeLen (s : State) : s.unrestricted.codeLen = s.codeLen := rfl
@[simp] theorem unrestricted_codeBits (s : State) : s.unrestricted.codeBits = s.codeBits := rfl
@[simp] theorem unrestricted_lzwDictMax (s : State) : s.unrestricted.plat.lzwDictMax = s.plat.lzwDictMax := rfl

@[simp] theorem unrestricted_allOk (s : State) (k : AccessKind) (a n : Nat) :
    allOk s.unrestricted.plat k a n = true :=
  allOk_iff.mpr fun _ _ _ => rfl

@[simp] theorem unrestricted_memRead (s : State) (m : Memory) (a n : Nat) :
    memRead s.unrestricted.plat m a n = some (m.peek a n) :=
  memRead_of_allOk (unrestricted_allOk s .read a n)

@[simp] theorem unrestricted_readable (s : State) (m : Memory) (a n : Nat) :
    readable s.unrestricted.plat m a n = m.peek a n :=
  readable_of_allOk (unrestricted_allOk s .read a n)

theorem unrestricted_writeDst (out : List Byte) (n : Nat) (s : State) :
    writeDst out n s.unrestricted = .done ((s.setMem (s.mem.poke s.dstA out)).setResultLen n).unrestricted := by
  unfold writeDst
  rw [if_pos (unrestricted_allOk ..)]
  rfl

/-! ### Endings -/

theorem andThen_eq_done {e : Ending} {k : State → Ending} {w : State} (h : e.andThen k = .done w) :
    ∃ v, e = .done v ∧ k v = .done w := by
  cases e with
  | done v => exact ⟨v, rfl, h⟩
  | raised x n s => cases h
  | stuck f => cases h

/-- A part of a command that began in `s` raises BUS_ERROR and reports no length, with DONE and DROPPED as they were. -/
def BusError (s : State) (e : Ending) : Prop :=
  ∃ w, e = .raised .busError 0 w ∧ w.status.done = s.status.done ∧ w.status.dropped = s.status.dropped

theorem busError_raised (s : State) : BusError s (.raised .busError 0 s) := ⟨s, rfl, rfl, rfl⟩

/-- How a part that began in `s` and ends in `v` where nothing is refused ends on the platform of `s`: just so when the
platform accepts what `ok` says, else in BUS_ERROR. -/
def Gated (ok : Prop) (s v : State) (e : Ending) : Prop :=
  (ok → e = .done (v.onPlat s.plat)) ∧ (¬ok → BusError s e)

theorem Gated.accepted {ok : Prop} {s v : State} {e : Ending} (hok : ok) (h : e = .done (v.onPlat s.plat)) :
    Gated ok s v e := ⟨fun _ => h, fun hn => absurd hok hn⟩

theorem Gated.refused {ok : Prop} {s v : State} {e : Ending} (hok : ¬ok) (h : BusError s e) : Gated ok s v e :=
  ⟨fun ho => absurd ho hok, fun _ => h⟩

theorem Gated.congr {ok ok' : Prop} {s v : State} {e : Ending} (h : Gated ok s v e) (hiff : ok' ↔ ok) :
    Gated ok' s v e := by
  rw [propext hiff]
  exact h

/-- Two parts in a row: the second begins in `s1`, which differs from `s` in nothing that a refusal touches. -/
theorem Gated.andThen {ok ok' : Prop} {s s1 w : State} {e : Ending} {k : State → Ending}
    (he : Gated ok s s1.unrestricted e) (hk : Gated ok' s1 w (k s1)) (hplat : s1.plat = s.plat)
    (hdone : s1.status.done = s.status.done) (hdropped : s1.status.dropped = s.status.dropped) :
    Gated (ok ∧ ok') s w (e.andThen k) := by
  by_cases hok : ok
  · have hrun : e.andThen k = k s1 := by
      rw [he.1 hok, ← hplat]
      rfl
    rw [hrun]
    refine ⟨fun h => hplat ▸ hk.1 h.2, fun h => ?_⟩
    obtain ⟨t, ht, hd, hr⟩ := hk.2 fun h' => h ⟨hok, h'⟩
    exact ⟨t, ht, hd.trans hdone, hr.trans hdropped⟩
  · obtain ⟨t, ht, hd, hr⟩ := he.2 hok
    exact .refused (fun h => hok h.1) ⟨t, by rw [ht]; rfl, hd, hr⟩

/-- The writes of a command (R13, R161, R163). -/
theorem writeDst_gated (out : List Byte) (n : Nat) (s : State) :
    Gated (s.DstWritable out.length) s ((s.setMem (s.mem.poke s.dstA out)).setResultLen n).unrestricted
      (writeDst out n s) := by
  rcases writeDst_cases out n s with ⟨hok, h⟩ | ⟨hno, h⟩
  · exact .accepted hok h
  · exact .refused (by simp [State.DstWritable, hno]) ⟨_, h, rfl, rfl⟩

end Sys2Proof.Machine
end

section
/-! PROOF. The tree that R402 builds has the byte values counted as its leaves. -/

namespace Sys2Proof.Machine

/-! ### Trees whose links point down the window -/

/-- Every internal node below `n` has its children below itself, as R402 creates them. -/
def LinksBelow (ns : Nodes) (n : Nat) : Prop :=
  ∀ j < n, (nodeAt ns j).leaf = true ∨ (nodeAt ns j).left.toNat < j ∧ (nodeAt ns j).right.toNat < j

/-- One level of `subtree`, at an internal node. -/
theorem subtree_succ_node {f : Nat} {ns : Nodes} {i : Nat} {l r : Tree} (hleaf : (nodeAt ns i).leaf = false)
    (hl : subtree f ns (nodeAt ns i).left.toNat = some l) (hr : subtree f ns (nodeAt ns i).right.toNat = some r) :
    subtree (f + 1) ns i = some (.node l r) := by
  simp [subtree, hleaf, hl, hr]

theorem subtree_succ_leaf {f : Nat} {ns : Nodes} {i : Nat} (hleaf : (nodeAt ns i).leaf = true) :
    subtree (f + 1) ns i = some (.leaf (nodeAt ns i).value) := by
  simp [subtree, hleaf]

/-- Below `n` a tree stands at every index, and more fuel than the index finds it. -/
theorem subtree_of_linksBelow {ns : Nodes} {n : Nat} (h : LinksBelow ns n) (i : Nat) (hi : i < n) :
    ∃ t, ∀ f, i < f → subtree f ns i = some t := by
  induction i using Nat.strong_induction_on with
  | _ i ih =>
    by_cases hleaf : (nodeAt ns i).leaf = true
    · refine ⟨.leaf (nodeAt ns i).value, fun f hf => ?_⟩
      obtain ⟨f, rfl⟩ := Nat.exists_eq_add_of_lt hf
      exact subtree_succ_leaf hleaf
    · obtain ⟨hl, hr⟩ := (h i hi).resolve_left hleaf
      obtain ⟨l, hsl⟩ := ih _ hl (by omega)
      obtain ⟨r, hsr⟩ := ih _ hr (by omega)
      refine ⟨.node l r, fun f hf => ?_⟩
      obtain ⟨f, rfl⟩ := Nat.exists_eq_add_of_lt hf
      exact subtree_succ_node (by simpa using hleaf) (hsl _ (by omega)) (hsr _ (by omega))

/-- The leaf values of the tree at an index of such a window. -/
def leavesAt (ns : Nodes) (i : Nat) : List Byte := ((subtree (i + 1) ns i).map Tree.leaves).getD []

theorem subtree_eq_of_agree {ns ns' : Nodes} {n : Nat} (h : LinksBelow ns n)
    (hag : ∀ j < n, nodeAt ns' j = nodeAt ns j) (f i : Nat) (hi : i < n) : subtree f ns' i = subtree f ns i := by
  induction f generalizing i with
  | zero => rfl
  | succ f ih =>
    rcases h i hi with hleaf | ⟨hl, hr⟩
    · rw [subtree_succ_leaf hleaf, subtree_succ_leaf (by rw [hag i hi, hleaf]), hag i hi]
    · simp only [subtree, hag i hi]
      rw [ih _ (by omega), ih _ (by omega)]

theorem leavesAt_eq_of_agree {ns ns' : Nodes} {n : Nat} (h : LinksBelow ns n)
    (hag : ∀ j < n, nodeAt ns' j = nodeAt ns j) {i : Nat} (hi : i < n) : leavesAt ns' i = leavesAt ns i := by
  rw [leavesAt, subtree_eq_of_agree h hag _ _ hi, leavesAt]

theorem leavesAt_leaf {ns : Nodes} {i : Nat} (hleaf : (nodeAt ns i).leaf = true) :
    leavesAt ns i = [(nodeAt ns i).value] := by
  rw [leavesAt, subtree_succ_leaf hleaf]
  rfl

theorem leavesAt_node {ns : Nodes} {n i : Nat} (h : LinksBelow ns n) (hi : i < n)
    (hleaf : (nodeAt ns i).leaf = false) :
    leavesAt ns i = leavesAt ns (nodeAt ns i).left.toNat ++ leavesAt ns (nodeAt ns i).right.toNat := by
  obtain ⟨hl, hr⟩ := (h i hi).resolve_left (by simp [hleaf])
  obtain ⟨l, hsl⟩ := subtree_of_linksBelow h _ (hl.trans hi)
  obtain ⟨r, hsr⟩ := subtree_of_linksBelow h _ (hr.trans hi)
  rw [leavesAt, subtree_succ_node hleaf (hsl _ hl) (hsr _ hr), leavesAt, hsl _ (Nat.lt_succ_self _), leavesAt,
    hsr _ (Nat.lt_succ_self _)]
  rfl

/-! ### The leaves of R402 -/

/-- The leaves are placed at `k` and up, and nothing below `k` changes. -/
theorem nodeAt_placeLeaves_below (f : Vector Word 256) (bs : List Byte) (ns : Nodes) {k j : Nat} (h : j < k) :
    nodeAt (placeLeaves f ns k bs) j = nodeAt ns j := by
  induction bs generalizing ns k with
  | nil => rfl
  | cons b bs ih => rw [placeLeaves, ih _ (by omega), nodeAt_setNode_ne _ _ (by omega)]

theorem nodeAt_placeLeaves (f : Vector Word 256) (bs : List Byte) (ns : Nodes) {k j : Nat} {b : Byte}
    (hk : k + bs.length ≤ 511) (hj : bs[j]? = some b) :
    nodeAt (placeLeaves f ns k bs) (k + j) =
      { prio := atByte f b, leaf := true, value := b, left := 0#9, right := 0#9 } := by
  induction bs generalizing ns k j with
  | nil => simp at hj
  | cons c bs ih =>
    rw [List.length_cons] at hk
    cases j with
    | zero =>
      obtain rfl : c = b := by simpa using hj
      rw [placeLeaves, nodeAt_placeLeaves_below _ _ _ (by omega), Nat.add_zero, nodeAt_setNode_self _ _ (by omega)]
    | succ j => rw [placeLeaves, ← Nat.add_assoc, Nat.add_right_comm, ih _ (by omega) (by simpa using hj)]

/-! ### The merges of R402 -/

theorem minKey_mem (ns : Nodes) (q : List Nat) (m : Nat) : minKey ns m q ∈ m :: q := by
  induction q generalizing m with
  | nil => simp [minKey]
  | cons a q ih =>
    rw [minKey]
    split
    · exact List.mem_cons_of_mem m (ih a)
    · exact (List.Perm.swap m a q).mem_iff.mp (List.mem_cons_of_mem a (ih m))

/-- An extraction takes one element out of the queue. -/
theorem takeMin_perm {ns : Nodes} {q q1 : List Nat} {a : Nat} (h : takeMin ns q = some (a, q1)) :
    q.Perm (a :: q1) := by
  cases q with
  | nil => cases h
  | cons b q =>
    simp only [takeMin, Option.some.injEq, Prod.mk.injEq] at h
    obtain ⟨rfl, rfl⟩ := h
    exact List.perm_cons_erase (minKey_mem ns q b)

theorem takeMin_isSome {ns : Nodes} {q : List Nat} (h : q ≠ []) : ∃ a q1, takeMin ns q = some (a, q1) := by
  cases q with
  | nil => exact absurd rfl h
  | cons b q => exact ⟨_, _, rfl⟩

/-- Where R402's merges stand: `next` nodes are there, the queue names some of them. -/
structure Merging (ns : Nodes) (next : Nat) (q : List Nat) : Prop where
  links : LinksBelow ns next
  queued : ∀ i ∈ q, i < next
  fits : next + q.length ≤ 512

/-- One merge keeps the leaves of the queued trees. -/
theorem merge_step {ns : Nodes} {next a b : Nat} {q q2 : List Nat} (h : Merging ns next q)
    (hq : q.Perm (a :: b :: q2)) :
    Merging (setNode ns next (mergedNode ns a b)) (next + 1) (next :: q2) ∧
      ((next :: q2).flatMap (leavesAt (setNode ns next (mergedNode ns a b)))).Perm (q.flatMap (leavesAt ns)) := by
  have hlen := hq.length_eq
  have hfits := h.fits
  simp only [List.length_cons] at hlen
  have ha : a < next := h.queued a (hq.mem_iff.mpr (by simp))
  have hb : b < next := h.queued b (hq.mem_iff.mpr (by simp))
  have hq2 : ∀ i ∈ q2, i < next := fun i hi => h.queued i (hq.mem_iff.mpr (by simp [hi]))
  have hself : nodeAt (setNode ns next (mergedNode ns a b)) next = mergedNode ns a b :=
    nodeAt_setNode_self _ _ (by omega)
  have hag : ∀ j < next, nodeAt (setNode ns next (mergedNode ns a b)) j = nodeAt ns j :=
    fun j hj => nodeAt_setNode_ne _ _ (by omega)
  have hleft : (mergedNode ns a b).left.toNat = a := by simp [mergedNode]; omega
  have hright : (mergedNode ns a b).right.toNat = b := by simp [mergedNode]; omega
  have hlinks : LinksBelow (setNode ns next (mergedNode ns a b)) (next + 1) := by
    intro j hj
    by_cases hjn : j = next
    · rw [hjn, hself, hleft, hright]
      exact .inr ⟨ha, hb⟩
    · rw [hag j (by omega)]
      exact h.links j (by omega)
  refine ⟨⟨hlinks, ?_, by simp only [List.length_cons]; omega⟩, ?_⟩
  · intro i hi
    rcases List.mem_cons.mp hi with rfl | hi
    · omega
    · exact (hq2 i hi).trans (Nat.lt_succ_self _)
  · have hnew : leavesAt (setNode ns next (mergedNode ns a b)) next = leavesAt ns a ++ leavesAt ns b := by
      rw [leavesAt_node hlinks (Nat.lt_succ_self _) (by rw [hself]; rfl), hself, hleft, hright,
        leavesAt_eq_of_agree h.links hag ha, leavesAt_eq_of_agree h.links hag hb]
    have hrest : q2.flatMap (leavesAt (setNode ns next (mergedNode ns a b))) = q2.flatMap (leavesAt ns) :=
      List.flatMap_congr fun i hi => leavesAt_eq_of_agree h.links hag (hq2 i hi)
    rw [List.flatMap_cons, hnew, hrest]
    simpa using (hq.flatMap_right (leavesAt ns)).symm

/-- R402's loop leaves one tree, of all the leaves that the queue had. -/
theorem mergeLoop_leaves (f : Nat) {ns : Nodes} {next : Nat} {q : List Nat} (h : Merging ns next q) (hq : q ≠ [])
    (hf : q.length ≤ f) :
    ∃ ns' next' root, mergeLoop f ns q next = (ns', [root]) ∧ Merging ns' next' [root] ∧
      (leavesAt ns' root).Perm (q.flatMap (leavesAt ns)) := by
  induction f generalizing ns next q with
  | zero => exact absurd (List.eq_nil_of_length_eq_zero (by omega)) hq
  | succ f ih =>
    obtain ⟨a, q1, ha⟩ := takeMin_isSome (ns := ns) hq
    have hpa := takeMin_perm ha
    by_cases hq1 : q1 = []
    · subst hq1
      obtain rfl : q = [a] := List.perm_singleton.mp hpa
      exact ⟨ns, next, a, by rw [mergeLoop, ha]; rfl, h, by simp⟩
    · obtain ⟨b, q2, hb⟩ := takeMin_isSome (ns := ns) hq1
      have hperm : q.Perm (a :: b :: q2) := hpa.trans ((takeMin_perm hb).cons a)
      obtain ⟨hm, hleaves⟩ := merge_step h hperm
      have hlen := hperm.length_eq
      obtain ⟨ns', next', root, hrun, hend, hp⟩ := ih hm (by simp) (by simp only [List.length_cons] at hlen ⊢; omega)
      exact ⟨ns', next', root, by simpa [mergeLoop, ha, hb] using hrun, hend, hp.trans hleaves⟩

theorem symsOf_length_le (f : Vector Word 256) : (symsOf f).length ≤ 256 := by
  have h := List.length_filter_le (fun b => decide (atByte f b ≠ 0#32)) allBytes
  simpa [symsOf, allBytes] using h

/-- The window of leaves that R402's merges start from. -/
theorem placeLeaves_merging (f : Vector Word 256) (bs : List Byte) (hlen : bs.length ≤ 256) :
    Merging (placeLeaves f zeroNodes 0 bs) bs.length (List.range bs.length) ∧
      (List.range bs.length).flatMap (leavesAt (placeLeaves f zeroNodes 0 bs)) = bs := by
  have hnode : ∀ j (hj : j < bs.length), nodeAt (placeLeaves f zeroNodes 0 bs) j =
      { prio := atByte f bs[j], leaf := true, value := bs[j], left := 0#9, right := 0#9 } := by
    intro j hj
    have h := nodeAt_placeLeaves f bs zeroNodes (k := 0) (by omega) (List.getElem?_eq_getElem hj)
    rwa [Nat.zero_add] at h
  refine ⟨⟨fun j hj => .inl (by rw [hnode j hj]), fun i hi => List.mem_range.mp hi, by simp; omega⟩, ?_⟩
  have hmap : ∀ j (hj : j < bs.length), leavesAt (placeLeaves f zeroNodes 0 bs) j = [bs[j]] := by
    intro j hj
    rw [leavesAt_leaf (by rw [hnode j hj]), hnode j hj]
  calc (List.range bs.length).flatMap (leavesAt (placeLeaves f zeroNodes 0 bs))
      = (List.range bs.length).flatMap fun j => [bs.getD j 0#8] :=
        List.flatMap_congr fun j hj => by
          have hj := List.mem_range.mp hj
          rw [hmap j hj, List.getD_eq_getElem _ _ hj]
    _ = (List.range bs.length).map fun j => bs.getD j 0#8 := by rw [List.map_eq_flatMap]
    _ = bs := by
      refine List.ext_getElem (by simp) fun j h1 h2 => ?_
      rw [List.getElem_map, List.getElem_range, List.getD_eq_getElem _ _ h2]

/-- R402: a nonempty FREQ window gives a tree, and its leaves are the byte values with a nonzero entry. -/
theorem buildTree_leaves {f : Vector Word 256} (h : symsOf f ≠ []) :
    (buildTree f).2 < 511 ∧
      ∃ t, subtree Config.maxNodes (buildTree f).1 (buildTree f).2 = some t ∧ t.leaves.Perm (symsOf f) := by
  obtain ⟨hm, hleaves⟩ := placeLeaves_merging f (symsOf f) (symsOf_length_le f)
  obtain ⟨ns, next, root, hrun, hend, hp⟩ :=
    mergeLoop_leaves (symsOf f).length hm (by simpa using h) (by simp)
  have hroot : root < next := hend.queued root (by simp)
  have hnext : next + 1 ≤ 512 := hend.fits
  obtain ⟨t, ht⟩ := subtree_of_linksBelow hend.links root hroot
  have hb : buildTree f = (ns, root) := by simp [buildTree, hrun]
  refine ⟨by rw [hb]; dsimp only; omega, t, by rw [hb]; exact ht _ (by unfold Config.maxNodes; omega), ?_⟩
  rw [hleaves, leavesAt, ht _ (Nat.lt_succ_self _)] at hp
  exact hp

/-- R402: after the build of a nonempty FREQ window the current tree has as many leaves as LEAF_COUNT says. -/
theorem buildBody_tree {s : State} (h : symsOf s.freq ≠ []) :
    ∃ t, (buildBody s).tree = some t ∧ t.leaves.length = (buildBody s).leafCount.toNat := by
  obtain ⟨hroot, t, ht, hperm⟩ := buildTree_leaves h
  have hsyms := symsOf_length_le s.freq
  have hroot' : (BitVec.ofNat 9 (buildTree s.freq).2).toNat = (buildTree s.freq).2 := by
    rw [BitVec.toNat_ofNat, Nat.mod_eq_of_lt (by omega)]
  refine ⟨t, ?_, ?_⟩
  · simpa [State.tree, buildBody, State.setTree, hroot'] using ht
  · rw [hperm.length_eq]
    simp only [buildBody, State.setTree, BitVec.toNat_ofNat]
    omega

end Sys2Proof.Machine
end

section
/-! PROOF. How many bytes each command writes: the serialization, the packed stream, the decoded symbols. -/

namespace Sys2Proof.Machine

/-! ### The serialization (R206, R207) -/

theorem leaves_length_pos (t : Tree) : 1 ≤ t.leaves.length := by
  induction t with
  | leaf v => exact Nat.le_refl 1
  | node l r ihl _ => simp only [Tree.leaves, List.length_append]; omega

theorem isLeaf_iff_leaves_length (t : Tree) : t.isLeaf = true ↔ t.leaves.length = 1 := by
  cases t with
  | leaf v => simp [Tree.isLeaf, Tree.leaves]
  | node l r =>
    have hl := leaves_length_pos l
    have hr := leaves_length_pos r
    simp only [Tree.isLeaf, Tree.leaves, List.length_append, Bool.false_eq_true, false_iff]
    omega

/-- Nine bits for each leaf and one for each of the internal nodes, of which there is one fewer. -/
theorem pre_length (t : Tree) : t.pre.length + 1 = 10 * t.leaves.length := by
  induction t with
  | leaf v => simp [Tree.pre, Tree.leaves]
  | node l r ihl ihr => simp only [Tree.pre, Tree.leaves, List.length_cons, List.length_append]; omega

theorem ser_length (l : Nat) (t : Tree) : (ser l t).length = 2 + treeBytes t.leaves.length := by
  have hpre := pre_length t
  have hpad := padCount_spec t.pre.length
  have hlen : (pad8 t.pre).length = t.pre.length + padCount t.pre.length := by simp [pad8]
  rw [ser, List.length_append, bytesOf_length (by rw [hlen]; exact hpad.1), hlen, treeBytes, ceilDiv, be16]
  simp only [List.length_cons, List.length_nil]
  omega

/-! ### The packed stream (R208) -/

theorem packChunks_length {n : Nat} {cs : List Bits} (hn : cs.flatten.length = n) (h : cs ≠ []) :
    (packChunks n cs).length = packedLen n := by
  rw [packChunks_eq_pack hn h, pack_length, hn]

theorem codes_length (len : Vector Byte 256) (bits : Vector (BitVec 256) 256) (bs : List Byte) :
    (bs.map (codeOf len bits)).flatten.length = payloadLen len bs := by
  simp [payloadLen, codeOf, List.length_flatten, Function.comp_def]

/-- R702, R801: pass 2 writes the packed stream of the codes, whatever the code windows hold. -/
theorem packCodes_length (len : Vector Byte 256) (bits : Vector (BitVec 256) 256) {bs : List Byte} (h : bs ≠ []) :
    (packChunks (payloadLen len bs) (bs.map (codeOf len bits))).length = packedLen (payloadLen len bs) :=
  packChunks_length (codes_length len bits bs) (by simpa using h)

theorem mem_allBytes (b : Byte) : b ∈ allBytes :=
  List.mem_map.mpr ⟨b.toNat, List.mem_range.mpr b.isLt, by simp⟩

theorem allBytes_nodup : allBytes.Nodup := by
  refine List.Nodup.map_on (fun i hi j hj h => ?_) List.nodup_range
  have h := congrArg BitVec.toNat h
  simp only [BitVec.toNat_ofNat] at h
  have hi := List.mem_range.mp hi
  have hj := List.mem_range.mp hj
  omega

/-- A sum over a sequence of bytes, taken value by value. -/
theorem sum_count_mul (g : Byte → Nat) (bs : List Byte) :
    (allBytes.map fun b => bs.count b * g b).sum = (bs.map g).sum := by
  have hsub : bs.toFinset ⊆ allBytes.toFinset := fun b _ => by simpa using mem_allBytes b
  calc (allBytes.map fun b => bs.count b * g b).sum
      = ∑ b ∈ allBytes.toFinset, bs.count b * g b := (List.sum_toFinset _ allBytes_nodup).symm
    _ = ∑ b ∈ bs.toFinset, bs.count b * g b :=
        (Finset.sum_subset hsub fun b _ hb => by
          rw [List.count_eq_zero_of_not_mem (by simpa using hb), Nat.zero_mul]).symm
    _ = (bs.map g).sum := by simp [Finset.sum_list_map_count]

/-- R801: with FREQ the counts of the bytes, the sum over the table is the length of their payload. -/
theorem weightedLen_countBytes (len : Vector Byte 256) {bs : List Byte} (h : bs.length < 2 ^ 32) :
    weightedLen (countBytes zeroFreq bs) len = payloadLen len bs := by
  simp only [weightedLen, payloadLen, countBytes_toNat h]
  exact sum_count_mul _ bs

theorem symsOf_countBytes_ne_nil {bs : List Byte} (h : bs.length < 2 ^ 32) (hne : bs ≠ []) :
    symsOf (countBytes zeroFreq bs) ≠ [] := by
  obtain ⟨b, bs', rfl⟩ := List.exists_cons_of_ne_nil hne
  have hcount := countBytes_toNat h b
  refine List.ne_nil_of_mem (a := b) (List.mem_filter.mpr ⟨mem_allBytes b, decide_eq_true fun h0 => ?_⟩)
  rw [h0, List.count_cons_self] at hcount
  simp at hcount

/-! ### The decoded symbols (R712) -/

theorem decodeMany_length_le (t : Tree) (n : Nat) (bs : Bits) : (t.decodeMany n bs).1.length ≤ n := by
  induction n generalizing bs with
  | zero => exact Nat.le_refl 0
  | succ n ih =>
    rw [Tree.decodeMany]
    cases t.decodeOne bs with
    | none => exact Nat.zero_le _
    | some p => exact Nat.succ_le_succ (ih p.2)

theorem decodeMany_length_of_complete {t : Tree} {n : Nat} {bs : Bits} (h : (t.decodeMany n bs).2.2 = true) :
    (t.decodeMany n bs).1.length = n := by
  induction n generalizing bs with
  | zero => rfl
  | succ n ih =>
    rw [Tree.decodeMany] at h ⊢
    cases hd : t.decodeOne bs with
    | none => simp [hd] at h
    | some p =>
      rw [hd] at h
      exact congrArg Nat.succ (ih h)

/-- Any symbol of a tree with two leaves or more takes a bit (R711). -/
theorem payload_ne_nil_of_complete {t : Tree} {n : Nat} {bs : Bits} (hn : n ≠ 0)
    (h : (t.decodeMany n bs).2.2 = true) : bs ≠ [] := by
  rintro rfl
  obtain ⟨n, rfl⟩ := Nat.exists_eq_succ_of_ne_zero hn
  cases t with
  | leaf v => cases h
  | node l r => cases h

/-! ### The LZW container (R210) -/

theorem encodeLoop_codes_ne_nil {cap : Nat} {d d' : Dict} {w : Pattern} {bs : List Byte} {ks : List Nat}
    (h : encodeLoop cap d w bs = some (ks, d')) : ks ≠ [] := by
  induction bs generalizing d w ks d' with
  | nil => cases h; simp
  | cons c cs ih =>
    rw [encodeLoop] at h
    split at h
    · exact ih h
    · split at h
      · cases h
      · split at h
        · cases h
        · cases h; simp

/-- An encoder that gets through a sequence gets through its beginning (R901). -/
theorem encodeLoop_isSome_of_append {cap : Nat} {d : Dict} {w : Pattern} {bs cs : List Byte}
    (h : (encodeLoop cap d w (bs ++ cs)).isSome = true) : (encodeLoop cap d w bs).isSome = true := by
  induction bs generalizing d w with
  | nil => rfl
  | cons b bs ih =>
    rw [List.cons_append, encodeLoop] at h
    rw [encodeLoop]
    cases hf : d.find (w ++ [b]) with
    | some j => simp only [hf] at h ⊢; exact ih h
    | none =>
      simp only [hf] at h ⊢
      cases ha : d.add cap (w ++ [b]) with
      | none => simp [ha] at h
      | some d1 =>
        simp only [ha] at h ⊢
        have hrest : (encodeLoop cap d1 [b] (bs ++ cs)).isSome = true := by
          cases hr : encodeLoop cap d1 [b] (bs ++ cs) with
          | none => simp [hr] at h
          | some r => rfl
        obtain ⟨r, hr⟩ := Option.isSome_iff_exists.mp (ih hrest)
        rw [hr]
        rfl

theorem lzwContainer_length (w : Nat) {ks : List Nat} (h : ks ≠ []) :
    (lzwContainer w ks).length = lzwLen ks.length w := by
  have hflat : (ks.map (bin w)).flatten.length = ks.length * w := by
    simp [List.length_flatten, Function.comp_def]
  rw [lzwContainer, List.length_cons, packChunks_length hflat (by simpa using h), lzwLen, Nat.add_comm]

end Sys2Proof.Machine
end

section
/-! PROOF. A parse that R612 accepts has a leaf as its root exactly when the serialization counts one leaf; a parse asks
the platform for nothing but the bytes it is given. -/

namespace Sys2Proof.Machine

theorem isLeaf_of_subtree {f : Nat} {ns : Nodes} {i : Nat} {t : Tree} (h : subtree f ns i = some t) :
    t.isLeaf = (nodeAt ns i).leaf := by
  cases f with
  | zero => cases h
  | succ f =>
    rw [subtree] at h
    cases hleaf : (nodeAt ns i).leaf with
    | true =>
      rw [hleaf, if_pos rfl] at h
      cases h
      rfl
    | false =>
      rw [hleaf, if_neg Bool.false_ne_true] at h
      split at h
      · cases h
      · split at h
        · cases h
        · cases h
          rfl

/-- R610's parse has gone on from `p` to `q`: the nodes that were there are still there. -/
def Parse.Extends (p q : Parse) : Prop := p.cnt ≤ q.cnt ∧ ∀ j < p.cnt, nodeAt q.nodes j = nodeAt p.nodes j

theorem Parse.Extends.trans {p q r : Parse} (h1 : p.Extends q) (h2 : q.Extends r) : p.Extends r :=
  ⟨h1.1.trans h2.1, fun j hj => (h2.2 j (hj.trans_le h1.1)).trans (h1.2 j hj)⟩

/-- Creating the next node: the entry at the count is written, and the count goes up. -/
theorem Parse.extends_create (p : Parse) (n : Node) (rest : Bits) (seen : List Byte) :
    p.Extends { nodes := setNode p.nodes p.cnt n, rest := rest, cnt := p.cnt + 1, seen := seen } :=
  ⟨Nat.le_succ _, fun j hj => nodeAt_setNode_ne _ _ (by omega)⟩

/-- The count may go up and bits be read without a node being written. -/
theorem Parse.extends_skip (p : Parse) (rest : Bits) :
    p.Extends { p with rest := rest, cnt := p.cnt + 1 } := ⟨Nat.le_succ _, fun _ _ => rfl⟩

/-- Linking a node created after `p` to its children. -/
theorem Parse.Extends.link {p q : Parse} (h : p.Extends q) {i : Nat} (hi : p.cnt ≤ i) (n : Node) :
    p.Extends { q with nodes := setNode q.nodes i n } :=
  ⟨h.1, fun j hj => (nodeAt_setNode_ne _ _ (by omega)).trans (h.2 j hj)⟩

theorem parseTree_extends (l f : Nat) (p : Parse) : p.Extends (parseTree l f p).1 := by
  induction f generalizing p with
  | zero => exact ⟨Nat.le_refl _, fun _ _ => rfl⟩
  | succ f ih =>
    rw [parseTree]
    split
    · exact ⟨Nat.le_refl _, fun _ _ => rfl⟩
    · dsimp only
      split
      · exact p.extends_skip p.rest
      · split
        · exact p.extends_skip _
        · split
          · exact p.extends_skip _
          · exact p.extends_create ..
      · next rest _ =>
        have h1 := (p.extends_create Node.zero rest p.seen).trans (ih _)
        split
        · next p1 hp1 => rwa [hp1] at h1
        · next p1 a hp1 =>
          rw [hp1] at h1
          have h2 := h1.trans (ih p1)
          split
          · next p2 hp2 => rwa [hp2] at h2
          · next p2 b hp2 =>
            rw [hp2] at h2
            exact h2.link (Nat.le_refl _) _

/-- The whole parse of R612: with one leaf counted and all bits used the root is a leaf, and only then. -/
theorem parseTree_root_leaf {l : Nat} {rest : Bits} {p : Parse} {r : Nat} (hl : 1 ≤ l)
    (hlen : rest.length = 10 * l - 1)
    (h : parseTree l (2 * l) { nodes := zeroNodes, rest := rest, cnt := 0, seen := [] } = (p, some r))
    (hend : p.rest = []) : r = 0 ∧ ((nodeAt p.nodes 0).leaf = true ↔ l = 1) := by
  obtain ⟨f, hf⟩ : ∃ f, 2 * l = f + 1 := ⟨2 * l - 1, by omega⟩
  rw [hf, parseTree, if_neg (by dsimp only; omega)] at h
  dsimp only at h
  split at h
  · cases h
  · next s =>
    split at h
    · cases h
    · split at h
      · cases h
      · simp only [Prod.mk.injEq, Option.some.injEq] at h
        obtain ⟨rfl, rfl⟩ := h
        have hs : (s.drop 8).length = 0 := congrArg List.length hend
        rw [List.length_drop] at hs
        rw [List.length_cons] at hlen
        rw [nodeAt_setNode_self _ _ (by omega)]
        simp only [true_iff, true_and]
        omega
  · next s =>
    split at h
    · cases h
    · next p1 a hp1 =>
      have h1 := parseTree_extends l f
        { nodes := setNode zeroNodes 0 Node.zero, rest := s, cnt := 0 + 1, seen := [] }
      rw [hp1] at h1
      split at h
      · cases h
      · next p2 b hp2 =>
        have h2 := parseTree_extends l f p1
        rw [hp2] at h2
        have hroot : nodeAt p2.nodes 0 = Node.zero := by
          rw [(h1.trans h2).2 0 (Nat.lt_succ_self 0), nodeAt_setNode_self _ _ (by omega)]
        simp only [Prod.mk.injEq, Option.some.injEq] at h
        obtain ⟨rfl, rfl⟩ := h
        rw [nodeAt_setNode_self _ _ (by omega), hroot]
        refine ⟨rfl, fun hleaf => absurd hleaf Bool.false_ne_true, fun hl1 => ?_⟩
        subst hl1
        obtain rfl : f = 1 := by omega
        rw [parseTree, if_pos rfl] at hp1
        exact nomatch congrArg Prod.snd hp1

/-- What R612 accepts, from the padding check on: nothing of it depends on the rest of the state. -/
theorem parseBody_done {l : Nat} {bs : List Byte} {s v : State} (h : parseBody l bs s = .done v) :
    ∃ p r, v = s.setTree p.nodes r l ∧ p.rest = [] ∧
      parseTree l (2 * l) { nodes := zeroNodes, rest := (bitsOf bs).take (10 * l - 1), cnt := 0, seen := [] } =
        (p, some r) ∧
      ∀ s' : State, parseBody l bs s' = .done (s'.setTree p.nodes r l) := by
  rcases parseBody_cases l bs s with ⟨ns, hr⟩ | ⟨p, r, hpad, hparse, hend, hd⟩
  · rw [hr] at h
    cases h
  · rw [hd] at h
    refine ⟨p, r, (Ending.done.inj h).symm, hend, hparse, fun s' => ?_⟩
    rw [parseBody, if_neg hpad, hparse]
    simp [hend]

theorem treeBytes_spec (l : Nat) : 10 * l - 1 ≤ 8 * treeBytes l := by
  unfold treeBytes ceilDiv
  omega

/-- R612 up to `STATUS.TREE_VALID <- 1`, when it is accepted. -/
theorem deserializeBody_done {a n : Nat} {s v : State} (h : deserializeBody a n s = .done v) :
    ∃ ns l, v = s.setTree ns 0 l ∧ l = beNat (s.mem.peek a 2) ∧ 1 ≤ l ∧ l ≤ 256 ∧ 2 + treeBytes l ≤ n ∧
      ((nodeAt ns 0).leaf = true ↔ l = 1) ∧
      ∀ s' : State, parseBody l (s.mem.peek (a + 2) (treeBytes l)) s' = .done (s'.setTree ns 0 l) := by
  rcases deserializeBody_cases a n s with ⟨x, -, hr⟩ | hr | ⟨l, -, hl, hl1, hl256, hn, -, hp⟩
  · rw [hr] at h
    cases h
  · rw [hr] at h
    cases h
  · rw [hp] at h
    obtain ⟨p, r, hv, hend, hparse, hall⟩ := parseBody_done h
    have hlen : ((bitsOf (s.mem.peek (a + 2) (treeBytes l))).take (10 * l - 1)).length = 10 * l - 1 := by
      have := treeBytes_spec l
      simp only [List.length_take, bitsOf_length, peek_length]
      omega
    obtain ⟨rfl, hleaf⟩ := parseTree_root_leaf hl1 hlen hparse hend
    exact ⟨p.nodes, l, hv, hl, hl1, hl256, hn, hleaf, hall⟩

/-- A tree that R612 accepts where nothing is refused: the platform is asked for the leaf count and the traversal. -/
theorem deserializeBody_gated {a n : Nat} {s v : State} (h : deserializeBody a n s.unrestricted = .done v) :
    ∃ ns l, v = (s.setTree ns 0 l).unrestricted ∧ 1 ≤ l ∧ l ≤ 256 ∧ 2 + treeBytes l ≤ n ∧
      ((nodeAt ns 0).leaf = true ↔ l = 1) ∧
      Gated (allOk s.plat .read a (2 + treeBytes l) = true) s v (deserializeBody a n s) := by
  obtain ⟨ns, l, hv, hl, hl1, hl256, hn, hleaf, hparse⟩ := deserializeBody_done h
  refine ⟨ns, l, hv, hl1, hl256, hn, hleaf, ?_⟩
  rw [unrestricted_mem] at hl hparse
  rw [deserializeBody, if_neg (by omega), allOk_add, Bool.and_eq_true]
  by_cases h2 : allOk s.plat .read a 2 = true
  · rw [memRead_of_allOk h2]
    dsimp only
    rw [← hl, if_neg (by unfold Config.maxLeaves; omega), if_neg (by omega)]
    by_cases ht : allOk s.plat .read (a + 2) (treeBytes l) = true
    · rw [memRead_of_allOk ht]
      refine .accepted ⟨h2, ht⟩ ?_
      dsimp only
      rw [hparse s, hv]
      rfl
    · rw [memRead_of_refused ht]
      exact .refused (fun hb => ht hb.2) ⟨_, rfl, rfl, rfl⟩
  · rw [memRead_of_refused h2]
    exact .refused (fun hb => h2 hb.1) (busError_raised s)

end Sys2Proof.Machine
end

section
/-! PROOF. Every command but LZW_DECOMPRESS beside its run where nothing is refused: it completes just so when the
platform accepts the bytes it reads and writes, and ends in BUS_ERROR otherwise. -/

namespace Sys2Proof.Machine

/-- The platform accepts the bytes that the command reads and writes when it completes in `v` where nothing is
refused. -/
def Accepts (i : Instr) (s v : State) : Prop :=
  allOk s.plat .read s.srcA (bytesRead i s.srcN v) = true ∧ (usesDst i = true → s.DstWritable v.resultLen.toNat)

theorem accepts_of_no_access {i : Instr} {s v : State} (hr : bytesRead i s.srcN v = 0) (hw : usesDst i = false) :
    Accepts i s v := ⟨by rw [hr]; rfl, by simp [hw]⟩

theorem accepts_iff_of_not_usesDst {i : Instr} (s v : State) (hw : usesDst i = false) :
    Accepts i s v ↔ allOk s.plat .read s.srcA (bytesRead i s.srcN v) = true := by
  simp [Accepts, hw]

theorem accepts_iff_of_usesDst {i : Instr} {s v : State} {n : Nat} (hw : usesDst i = true)
    (hv : v.resultLen = BitVec.ofNat 32 n) (hn : n ≤ s.dstN) :
    Accepts i s v ↔ allOk s.plat .read s.srcA (bytesRead i s.srcN v) = true ∧ s.DstWritable n := by
  have hlt : s.dstN < 2 ^ 32 := s.latch.dstCap.isLt
  rw [Accepts, hv, BitVec.toNat_ofNat, Nat.mod_eq_of_lt (hn.trans_lt hlt)]
  simp [hw]

theorem ite_raised_eq_done {c : Prop} [Decidable c] {x : ErrCode} {n : Nat} {s v : State} {e : Ending} :
    (if c then Ending.raised x n s else e) = .done v ↔ ¬c ∧ e = .done v := by
  by_cases h : c <;> simp [h]

/-! ### Commands without a window -/

theorem nopBody_gated {s v : State} (h : nopBody s.unrestricted = .done v) :
    Gated (Accepts .nop s v) s v (nopBody s) := by
  cases h
  exact .accepted (accepts_of_no_access rfl rfl) rfl

theorem clearBody_gated {s v : State} (h : clearBody s.unrestricted = .done v) :
    Gated (Accepts .clear s v) s v (clearBody s) := by
  cases h
  exact .accepted (accepts_of_no_access rfl rfl) rfl

theorem treeBuildBody_gated {s v : State} (h : treeBuildBody s.unrestricted = .done v) :
    Gated (Accepts .treeBuild s v) s v (treeBuildBody s) := by
  simp only [treeBuildBody, ite_raised_eq_done] at h
  simp only [unrestricted_freq] at h
  obtain ⟨hsyms, hsum, hv⟩ := h
  rw [treeBuildBody, if_neg hsyms, if_neg hsum, ← Ending.done.inj hv]
  exact .accepted (accepts_of_no_access rfl rfl) rfl

theorem codesBody_of_tree {s : State} {t : Tree} (ht : s.tree = some t) :
    codesBody s = .done (s.setCodes t.codeTable.len t.codeTable.bits) := by
  rw [codesBody, ht]

theorem codeGenBody_gated {s v : State} (h : codeGenBody s.unrestricted = .done v) :
    Gated (Accepts .codeGen s v) s v (codeGenBody s) := by
  simp only [codeGenBody, ite_raised_eq_done] at h
  obtain ⟨hvalid, hv⟩ := h
  rw [codeGenBody, if_neg (by exact hvalid)]
  rcases codesBody_cases s.unrestricted with ⟨-, hstuck⟩ | ⟨t, ht, hd⟩
  · rw [hstuck] at hv
    cases hv
  · rw [hd] at hv
    cases hv
    rw [codesBody_of_tree (s := s) ht]
    exact .accepted (accepts_of_no_access rfl rfl) rfl

/-! ### Counting and the tree codec -/

/-- The state once every byte of SRC has been counted (R400). -/
def State.countedSrc (s : State) : State := s.setFreq (countBytes zeroFreq s.src)

theorem freqBody_of_allOk {s : State} (h : allOk s.plat .read s.srcA s.srcN = true) :
    freqBody s = .done s.countedSrc := by
  rcases freqBody_cases s with ⟨-, hd⟩ | ⟨hno, -⟩
  · exact hd
  · simp [h] at hno

theorem freqBody_done {s v : State} (h : freqBody s = .done v) : v = s.countedSrc := by
  rcases freqBody_cases s with ⟨-, hd⟩ | ⟨-, hr⟩
  · rw [hd] at h
    exact (Ending.done.inj h).symm
  · rw [hr] at h
    cases h

theorem freqBody_of_refused {s : State} (h : ¬ allOk s.plat .read s.srcA s.srcN = true) : BusError s (freqBody s) := by
  rcases freqBody_cases s with ⟨hok, -⟩ | ⟨-, hr⟩
  · exact absurd hok h
  · exact ⟨_, hr, rfl, rfl⟩

theorem freqBody_unrestricted (s : State) : freqBody s.unrestricted = .done s.countedSrc.unrestricted :=
  freqBody_of_allOk (s := s.unrestricted) (unrestricted_allOk ..)

theorem freqBody_gated (s : State) :
    Gated (allOk s.plat .read s.srcA s.srcN = true) s s.countedSrc.unrestricted (freqBody s) :=
  ⟨freqBody_of_allOk, freqBody_of_refused⟩

/-- What a command does after its last access changes nothing of how it is gated. -/
theorem Gated.andThen_done {ok : Prop} {s s1 w : State} {e : Ending} (he : Gated ok s s1.unrestricted e)
    (hplat : s1.plat = s.plat) (hdone : s1.status.done = s.status.done)
    (hdropped : s1.status.dropped = s.status.dropped) {f : State → State}
    (hw : f s1 = w.onPlat s.plat) : Gated ok s w (e.andThen fun t => .done (f t)) :=
  (he.andThen (.accepted (ok := True) trivial (by rw [hw, hplat])) hplat hdone hdropped).congr (by simp)

theorem freqCountBody_gated {s v : State} (h : freqCountBody s.unrestricted = .done v) :
    Gated (Accepts .freqCount s v) s v (freqCountBody s) := by
  simp only [freqCountBody, ite_raised_eq_done, freqBody_unrestricted, andThen_done] at h
  simp only [unrestricted_srcN] at h
  obtain ⟨hn, hv⟩ := h
  cases hv
  rw [freqCountBody, if_neg hn]
  refine ((freqBody_gated s).andThen_done rfl rfl rfl ?_).congr (accepts_iff_of_not_usesDst _ _ rfl)
  rfl

theorem setTree_leafCount_toNat (ns : Nodes) {l : Nat} (h : l ≤ 256) (s : State) :
    (s.setTree ns 0 l).leafCount.toNat = l := by
  simp only [State.setTree, BitVec.toNat_ofNat]
  omega

theorem treeBytes_le {l : Nat} (h : l ≤ 256) : treeBytes l ≤ 320 := by
  unfold treeBytes ceilDiv
  omega

theorem treeDeserializeBody_gated {s v : State} (h : treeDeserializeBody s.unrestricted = .done v) :
    Gated (Accepts .treeDeserialize s v) s v (treeDeserializeBody s) := by
  obtain ⟨v1, hd, hv⟩ := andThen_eq_done h
  obtain ⟨ns, l, rfl, -, hl, -, -, hg⟩ := deserializeBody_gated hd
  have hcount := setTree_leafCount_toNat ns hl s
  rw [unrestricted_leafCount, hcount] at hv
  cases hv
  refine (hg.andThen_done rfl rfl rfl ?_).congr ?_
  · rw [hcount]
    rfl
  · have := treeBytes_le hl
    rw [accepts_iff_of_not_usesDst _ _ rfl]
    simp only [bytesRead, setResultLen_resultLen, BitVec.toNat_ofNat]
    rw [Nat.mod_eq_of_lt (by omega)]
    rfl

/-! ### The commands that write DST -/

/-- The last part of a command that writes DST: `out` to the window, its length to RESULT_LEN. -/
theorem writeDst_accepts {i : Instr} {out : List Byte} {n : Nat} {s v : State} (hw : usesDst i = true)
    (hout : out.length = n) (hn : n ≤ s.dstN) (hr : allOk s.plat .read s.srcA (bytesRead i s.srcN v) = true)
    (h : writeDst out n s.unrestricted = .done v) : Gated (Accepts i s v) s v (writeDst out n s) := by
  rw [unrestricted_writeDst] at h
  cases h
  refine (writeDst_gated out n s).congr ?_
  rw [accepts_iff_of_usesDst hw rfl hn, hout]
  simp [hr]

theorem tree_leaves_length {s : State} {t : Tree} (hok : s.treeOk = true) (ht : s.tree = some t) :
    t.leaves.length = s.leafCount.toNat := by
  unfold State.tree at ht
  simp only [State.treeOk, treeValid, ht, Bool.and_eq_true, decide_eq_true_eq] at hok
  obtain ⟨-, hlen, -⟩ := hok
  exact hlen

theorem treeSerializeBody_gated {s v : State} (hinv : s.TreeInv) (h : treeSerializeBody s.unrestricted = .done v) :
    Gated (Accepts .treeSerialize s v) s v (treeSerializeBody s) := by
  simp only [treeSerializeBody, ite_raised_eq_done] at h
  simp only [unrestricted_status, unrestricted_leafCount, unrestricted_dstN, unrestricted_tree] at h
  obtain ⟨hvalid, hcap, hv⟩ := h
  rw [treeSerializeBody, if_neg hvalid, if_neg hcap]
  cases ht : s.tree with
  | none => simp [ht] at hv
  | some t =>
    rw [ht] at hv
    have hlen := tree_leaves_length (hinv (by simpa using hvalid)) ht
    exact writeDst_accepts rfl (by rw [ser_length, hlen]) (by omega) rfl hv

/-- Some byte of SRC is refused: whatever is written, the command is not accepted. -/
theorem not_accepts_of_refused {i : Instr} {s v : State}
    (hr : ¬ allOk s.plat .read s.srcA (bytesRead i s.srcN v) = true) : ¬ Accepts i s v := fun h => hr h.1

theorem src_ne_nil {s : State} (h : s.srcN ≠ 0) : s.mem.peek s.srcA s.srcN ≠ [] := by
  rw [← List.length_pos_iff, peek_length]
  omega

theorem bitPackBody_gated {s v : State} (h : bitPackBody s.unrestricted = .done v) :
    Gated (Accepts .bitPack s v) s v (bitPackBody s) := by
  simp only [bitPackBody, ite_raised_eq_done] at h
  simp only [unrestricted_status, unrestricted_srcN, unrestricted_srcA, unrestricted_dstN, unrestricted_mem,
    unrestricted_readable, unrestricted_codeLen, unrestricted_codeBits] at h
  obtain ⟨hvalid, hn, hcodes, -, hcap, hv⟩ := h
  replace hcodes : ¬ ((s.mem.peek s.srcA s.srcN).any fun b => decide (atByte s.codeLen b = 0#8)) = true := hcodes
  rw [bitPackBody, if_neg hvalid, if_neg hn]
  dsimp only
  by_cases hr : allOk s.plat .read s.srcA s.srcN = true
  · rw [readable_of_allOk hr, if_neg hcodes, if_neg (by simp [hr]), if_neg hcap]
    exact writeDst_accepts rfl (packCodes_length _ _ (src_ne_nil hn)) (by omega) hr hv
  · have hcoded : ¬ ((readable s.plat s.mem s.srcA s.srcN).any fun b => decide (atByte s.codeLen b = 0#8)) = true := by
      simp only [List.any_eq_true] at hcodes ⊢
      exact fun ⟨b, hb, h0⟩ => hcodes ⟨b, (readable_begins_peek ..).subset hb, h0⟩
    rw [if_neg hcoded, if_pos (by simpa using hr)]
    exact .refused (not_accepts_of_refused hr) (busError_raised s)

/-- R712 from `b0 <- MemRead(…)` on, when it ends without error. -/
theorem unpackBody_done {a m n : Nat} {s v : State} (h : unpackBody a m n s = .done v) :
    ∃ t, s.tree = some t ∧ beNat (s.mem.peek a 1) ≠ 0 ∧
      (t.decodeMany n (payloadBits (s.mem.peek a m))).2 = ([], true) ∧
      writeDst (t.decodeMany n (payloadBits (s.mem.peek a m))).1 n s = .done v := by
  rw [unpackBody] at h
  cases hb : memRead s.plat s.mem a 1 with
  | none => simp [hb] at h
  | some b0 =>
    obtain ⟨-, rfl⟩ := memRead_eq_some.mp hb
    simp only [hb, ite_raised_eq_done] at h
    obtain ⟨hfirst, h⟩ := h
    cases ht : s.tree with
    | none => simp [ht] at h
    | some t =>
      simp only [raiseAt_eq, ht, ite_raised_eq_done] at h
      obtain ⟨-, -, hall, hrest, hv⟩ := h
      exact ⟨t, rfl, hfirst, Prod.ext (by simpa using hrest) (by simpa using hall), hv⟩

/-- What R711 reads of a stream that decodes: under a one-leaf tree the first byte (log 9), else every byte. -/
theorem unpack_reads {t : Tree} {a m n : Nat} {s : State} (hn : n ≠ 0)
    (hall : (t.decodeMany n (payloadBits (s.mem.peek a m))).2.2 = true) (h1 : allOk s.plat .read a 1 = true) :
    (!t.isLeaf && !(payloadBits (s.mem.peek a m)).isEmpty && !allOk s.plat .read a m) = true ↔
      ¬ allOk s.plat .read a (if t.isLeaf = true then 1 else m) = true := by
  have hpay := payload_ne_nil_of_complete hn hall
  cases t.isLeaf <;> simp [hpay, h1]

/-- A stream that decodes, once its bytes are read: the symbols are written. -/
theorem unpackBody_eq_writeDst {t : Tree} {a m n : Nat} {s : State} (ht : s.tree = some t)
    (hfirst : beNat (s.mem.peek a 1) ≠ 0) (hall : (t.decodeMany n (payloadBits (s.mem.peek a m))).2 = ([], true))
    (h1 : allOk s.plat .read a 1 = true)
    (hr : ¬ (!t.isLeaf && !(payloadBits (s.mem.peek a m)).isEmpty && !allOk s.plat .read a m) = true) :
    unpackBody a m n s = writeDst (t.decodeMany n (payloadBits (s.mem.peek a m))).1 n s := by
  rw [unpackBody, memRead_of_allOk h1]
  dsimp only
  rw [if_neg hfirst, ht]
  dsimp only
  rw [if_neg hr, hall]
  by_cases hw : allOk s.plat .write s.dstA (t.decodeMany n (payloadBits (s.mem.peek a m))).1.length = true
  · rw [if_neg (by simp [hw]), if_neg (by simp), if_neg (by simp)]
  · rw [if_pos (by simp [hw])]
    exact (if_neg hw).symm

/-- R712 from `b0 <- MemRead(…)` on, where it ends without error if nothing is refused. -/
theorem unpackBody_gated {a m n : Nat} {s v : State} (hn : n ≠ 0) (hm : 1 ≤ m)
    (h : unpackBody a m n s.unrestricted = .done v) :
    ∃ t, s.tree = some t ∧ v.resultLen = BitVec.ofNat 32 n ∧ v.leafCount = s.leafCount ∧
      Gated (allOk s.plat .read a (if t.isLeaf = true then 1 else m) = true ∧ s.DstWritable n) s v
        (unpackBody a m n s) := by
  obtain ⟨t, ht, hfirst, hall, hv⟩ := unpackBody_done h
  rw [unrestricted_tree] at ht
  rw [unrestricted_mem] at hfirst hall hv
  have hcomplete := congrArg Prod.snd hall
  rw [unrestricted_writeDst] at hv
  cases hv
  refine ⟨t, ht, rfl, rfl, ?_⟩
  by_cases h1 : allOk s.plat .read a 1 = true
  · by_cases hr : allOk s.plat .read a (if t.isLeaf = true then 1 else m) = true
    · rw [unpackBody_eq_writeDst ht hfirst hall h1 fun h => (unpack_reads hn hcomplete h1).mp h hr]
      refine (writeDst_gated _ n s).congr ?_
      simp [hr, decodeMany_length_of_complete hcomplete]
    · refine .refused (fun h => hr h.1) ?_
      rw [unpackBody, memRead_of_allOk h1]
      dsimp only
      rw [if_neg hfirst, ht]
      dsimp only
      rw [if_pos ((unpack_reads hn hcomplete h1).mpr hr)]
      exact busError_raised s
  · rw [unpackBody, memRead_of_refused h1]
    refine .refused (fun h => h1 (allOk_of_le ?_ h.1)) (busError_raised s)
    split <;> omega

theorem bitUnpackBody_gated {s v : State} (hinv : s.TreeInv) (h : bitUnpackBody s.unrestricted = .done v) :
    Gated (Accepts .bitUnpack s v) s v (bitUnpackBody s) := by
  simp only [bitUnpackBody, ite_raised_eq_done] at h
  simp only [unrestricted_status, unrestricted_srcN, unrestricted_srcA, unrestricted_dstN, unrestricted_latch] at h
  obtain ⟨hvalid, hn, hsrc, hcap, hv⟩ := h
  obtain ⟨t, ht, hlen, hcount, hg⟩ := unpackBody_gated hn (by omega) hv
  have hleaves := tree_leaves_length (hinv (by simpa using hvalid)) ht
  have hone : v.leafCount = 1#9 ↔ t.isLeaf = true := by
    rw [hcount, isLeaf_iff_leaves_length, hleaves, ← BitVec.toNat_inj]
    rfl
  rw [bitUnpackBody, if_neg hvalid, if_neg hn, if_neg hsrc, if_neg hcap]
  refine hg.congr ?_
  rw [accepts_iff_of_usesDst rfl hlen (by omega)]
  simp only [bytesRead, hone]

/-! ### The compressors and HUF_DECOMPRESS -/

theorem lzwWrite_gated {ks : List Nat} {d : Dict} {s v : State} (hks : ks ≠ [])
    (hr : allOk s.plat .read s.srcA s.srcN = true) (h : lzwWrite ks d s.unrestricted = .done v) :
    Gated (Accepts .lzwCompress s v) s v (lzwWrite ks d s) := by
  simp only [lzwWrite, ite_raised_eq_done] at h
  obtain ⟨hgain, hcap, hv⟩ := h
  rw [lzwWrite, if_neg (by exact hgain), if_neg (by exact hcap)]
  have hg := writeDst_accepts (i := .lzwCompress) (s := s.setLzw _ _ _ _) rfl (lzwContainer_length _ hks)
    (Nat.not_lt.mp hcap) hr hv
  exact hg

theorem lzwCompressBody_gated {s v : State} (h : lzwCompressBody s.unrestricted = .done v) :
    Gated (Accepts .lzwCompress s v) s v (lzwCompressBody s) := by
  simp only [lzwCompressBody, ite_raised_eq_done] at h
  simp only [unrestricted_srcN, unrestricted_srcA, unrestricted_mem, unrestricted_readable, unrestricted_allOk,
    unrestricted_lzwDictMax] at h
  obtain ⟨hn, hv⟩ := h
  rw [lzwCompressBody, if_neg hn]
  cases henc : lzwEncode s.plat.lzwDictMax (s.mem.peek s.srcA s.srcN) with
  | none => simp [henc] at hv
  | some q =>
    obtain ⟨ks, d⟩ := q
    rw [henc] at hv
    by_cases hr : allOk s.plat .read s.srcA s.srcN = true
    · rw [readable_of_allOk hr, henc]
      dsimp only
      rw [if_neg (by simp [hr])]
      exact lzwWrite_gated (encodeLoop_codes_ne_nil henc) hr hv
    · obtain ⟨rest, hrest⟩ := readable_begins_peek s.plat s.mem s.srcA s.srcN
      have hsome : (lzwEncode s.plat.lzwDictMax (readable s.plat s.mem s.srcA s.srcN)).isSome = true :=
        encodeLoop_isSome_of_append (cs := rest) (by rw [hrest]; exact Option.isSome_of_eq_some henc)
      obtain ⟨q, hq⟩ := Option.isSome_iff_exists.mp hsome
      rw [hq]
      dsimp only
      rw [if_pos (by simpa using hr)]
      exact .refused (not_accepts_of_refused hr) (busError_raised s)

theorem hufContainer_length {l n k : Nat} {t : Tree} {len : Vector Byte 256} {bits : Vector (BitVec 256) 256}
    {bs : List Byte} (hl : t.leaves.length = l) (hn : n = payloadLen len bs) (hbs : bs ≠ []) :
    (be32 k ++ ser l t ++ packChunks n (bs.map (codeOf len bits))).length = hufLen l n := by
  subst hn
  rw [List.length_append, List.length_append, ser_length, hl, packCodes_length _ _ hbs, hufLen, be32]
  simp only [List.length_cons, List.length_nil]
  omega

/-- What stages 1 to 3 of R802 leave for the container: a tree of LEAF_COUNT leaves, FREQ the counts of SRC. -/
structure TablesReady (s : State) (t : Tree) : Prop where
  srcNonempty : s.srcN ≠ 0
  tree : s.tree = some t
  leaves : t.leaves.length = s.leafCount.toNat
  weights : weightedLen s.freq s.codeLen = payloadLen s.codeLen s.src

theorem stages_ready {s : State} (hn : s.srcN ≠ 0) :
    ∃ t, TablesReady ((buildBody s.countedSrc).setCodes t.codeTable.len t.codeTable.bits) t := by
  have hlen : s.src.length < 2 ^ 32 := by
    rw [State.src, peek_length]
    exact s.latch.srcLen.isLt
  obtain ⟨t, ht, hleaves⟩ := buildBody_tree (s := s.countedSrc) (symsOf_countBytes_ne_nil hlen (src_ne_nil hn))
  exact ⟨t, hn, ht, hleaves, weightedLen_countBytes _ hlen⟩

theorem hufWrite_gated {s v : State} {t : Tree} (ht : TablesReady s t)
    (hr : allOk s.plat .read s.srcA s.srcN = true) (h : hufWrite s.unrestricted = .done v) :
    Gated (Accepts .hufCompress s v) s v (hufWrite s) := by
  simp only [hufWrite, ite_raised_eq_done] at h
  obtain ⟨hgain, hcap, hv⟩ := h
  rw [hufWrite, if_neg (by exact hgain), if_neg (by exact hcap)]
  have htree : (s.setOrigLen s.srcN).tree = some t := ht.tree
  have htree' : (s.unrestricted.setOrigLen s.unrestricted.srcN).tree = some t := ht.tree
  rw [htree'] at hv
  rw [htree]
  have hg := writeDst_accepts (i := .hufCompress) (s := s.setOrigLen s.srcN) rfl
    (hufContainer_length ht.leaves ht.weights (src_ne_nil ht.srcNonempty)) (Nat.not_lt.mp hcap) hr hv
  exact hg

theorem hufCompressBody_gated {s v : State} (h : hufCompressBody s.unrestricted = .done v) :
    Gated (Accepts .hufCompress s v) s v (hufCompressBody s) := by
  simp only [hufCompressBody, ite_raised_eq_done, freqBody_unrestricted, andThen_done] at h
  simp only [unrestricted_srcN] at h
  obtain ⟨hn, hv⟩ := h
  obtain ⟨t, hready⟩ := stages_ready hn
  rw [codesBody_of_tree (s := buildBody s.countedSrc.unrestricted) hready.tree, andThen_done] at hv
  rw [hufCompressBody, if_neg hn]
  by_cases hr : allOk s.plat .read s.srcA s.srcN = true
  · rw [freqBody_of_allOk hr, andThen_done, codesBody_of_tree (s := buildBody s.countedSrc) hready.tree, andThen_done]
    have hg := hufWrite_gated hready hr hv
    exact hg
  · obtain ⟨w, hw, hdone, hdropped⟩ := freqBody_of_refused hr
    rw [hw, andThen_raised]
    exact .refused (not_accepts_of_refused (i := .hufCompress) hr) ⟨w, rfl, hdone, hdropped⟩

theorem hufPayload_gated {n : Nat} {s v : State} (hn : n ≠ 0) (h : hufPayload n s.unrestricted = .done v) :
    ∃ t, s.tree = some t ∧ v.resultLen = BitVec.ofNat 32 n ∧ v.leafCount = s.leafCount ∧ n ≤ s.dstN ∧
      6 + treeBytes s.leafCount.toNat < s.srcN ∧
      Gated (allOk s.plat .read (s.srcA + (6 + treeBytes s.leafCount.toNat))
          (if t.isLeaf = true then 1 else s.srcN - (6 + treeBytes s.leafCount.toNat)) = true ∧ s.DstWritable n)
        s v (hufPayload n s) := by
  simp only [hufPayload, ite_raised_eq_done] at h
  simp only [unrestricted_srcN, unrestricted_srcA, unrestricted_dstN, unrestricted_leafCount] at h
  obtain ⟨hm, hcap, hv⟩ := h
  obtain ⟨t, ht, hlen, hcount, hg⟩ := unpackBody_gated hn (by omega) hv
  refine ⟨t, ht, hlen, hcount, by omega, by omega, ?_⟩
  rw [hufPayload, if_neg hm, if_neg hcap]
  exact hg

theorem hufDecompressBody_gated {s v : State} (h : hufDecompressBody s.unrestricted = .done v) :
    Gated (Accepts .hufDecompress s v) s v (hufDecompressBody s) := by
  simp only [hufDecompressBody, unrestricted_memRead, ite_raised_eq_done] at h
  simp only [unrestricted_srcN, unrestricted_srcA, unrestricted_mem] at h
  obtain ⟨h4, hn, h⟩ := h
  obtain ⟨v1, hd, hv⟩ := andThen_eq_done h
  obtain ⟨ns, l, rfl, hl1, hl, hfit, hleaf, hg⟩ :=
    deserializeBody_gated (s := s.setOrigLen (beNat (s.mem.peek s.srcA 4))) hd
  obtain ⟨t, ht, hlen, hcount, hcap, hroom, hpay⟩ := hufPayload_gated hn hv
  rw [setTree_leafCount_toNat ns hl] at hroom hpay
  have hone : v.leafCount = 1#9 ↔ l = 1 := by
    rw [hcount, ← BitVec.toNat_inj, setTree_leafCount_toNat ns hl]
    rfl
  have hisLeaf : t.isLeaf = true ↔ l = 1 := by
    rw [isLeaf_of_subtree ht]
    exact hleaf
  have hread : bytesRead .hufDecompress s.srcN v =
      4 + (2 + treeBytes l + if t.isLeaf = true then 1 else s.srcN - (6 + treeBytes l)) := by
    change 6 + treeBytes l < s.srcN at hroom
    simp only [bytesRead, hone, hisLeaf]
    split
    · next h1 => rw [h1]; omega
    · omega
  rw [hufDecompressBody, if_neg h4]
  by_cases hhead : allOk s.plat .read s.srcA 4 = true
  · rw [memRead_of_allOk hhead]
    dsimp only
    rw [if_neg hn]
    refine (Gated.andThen (s := s) hg hpay rfl rfl rfl).congr ?_
    rw [accepts_iff_of_usesDst (s := s) rfl hlen hcap, hread, allOk_add, hhead, Bool.true_and, allOk_add,
      Bool.and_eq_true, Nat.add_assoc, show 4 + (2 + treeBytes l) = 6 + treeBytes l by omega, and_assoc]
    rfl
  · rw [memRead_of_refused hhead]
    refine .refused (not_accepts_of_refused fun h => hhead (allOk_of_le ?_ h)) (busError_raised s)
    omega

end Sys2Proof.Machine
end

section
/-! PROOF. LZW_DECOMPRESS beside its run where nothing is refused, and how far its registers tell whether it has written
(R912). -/

namespace Sys2Proof.Machine

/-! ### The bytes of the codes -/

/-- The platform accepts the reads of the bytes that hold the bits `q` to `q' - 1` of the stream at `a`. -/
def BitsReadable (p : Platform) (a q q' : Nat) : Prop := ∀ j, q ≤ j → j < q' → memOk p .read (a + j / 8) = true

theorem codeReadable_iff {p : Platform} {a q w : Nat} (hw : 0 < w) :
    codeReadable p a q w = true ↔ BitsReadable p a q (q + w) := by
  rw [codeReadable, allOk_iff]
  constructor
  · exact fun h j h1 h2 => h _ (by omega) (by omega)
  · intro h c h1 h2
    have hc := h (max q (8 * (c - a))) (by omega) (by omega)
    rwa [show a + max q (8 * (c - a)) / 8 = c by omega] at hc

theorem bitsReadable_append {p : Platform} {a q n m : Nat} :
    BitsReadable p a q (q + (n + m)) ↔ BitsReadable p a q (q + n) ∧ BitsReadable p a (q + n) (q + n + m) := by
  constructor
  · exact fun h => ⟨fun j h1 h2 => h j h1 (by omega), fun j h1 h2 => h j (by omega) (by omega)⟩
  · intro ⟨h1, h2⟩ j hq hj
    rcases Nat.lt_or_ge j (q + n) with hlt | hge
    · exact h1 j hq hlt
    · exact h2 j hge (by omega)

/-- The header byte, the first stream byte and the codes are the whole container (R210): `z` zeros and the sentinel fill
no more than the first stream byte. -/
theorem container_reads {p : Platform} {a n z : Nat} (hz : z ≤ 7) (hn : 2 ≤ n) :
    allOk p .read a n = true ↔
      allOk p .read a 1 = true ∧ allOk p .read (a + 1) 1 = true ∧ BitsReadable p (a + 1) (z + 1) (8 * (n - 1)) := by
  simp only [allOk_iff]
  constructor
  · intro h
    exact ⟨fun c h1 h2 => h c h1 (by omega), fun c h1 h2 => h c (by omega) (by omega),
      fun j h1 h2 => h _ (by omega) (by omega)⟩
  · intro ⟨h0, h1, hbits⟩ c hlo hhi
    rcases Nat.lt_or_ge c (a + 1) with hc | hc
    · exact h0 c hlo hc
    rcases Nat.lt_or_ge c (a + 2) with hc' | hc'
    · exact h1 c hc hc'
    · have hb := hbits (8 * (c - (a + 1))) (by omega) (by omega)
      rwa [show a + 1 + 8 * (c - (a + 1)) / 8 = c by omega] at hb

/-! ### One round of R912's loop -/

/-- The loop after a round for the code `k`, which stood for the pattern `e` and left the dictionary `d`. -/
def LzwRun.after (r : LzwRun) (k : Nat) (e : Pattern) (d : Dict) : LzwRun :=
  { dict := d, prev := some e, out := r.out ++ e, count := r.count + 1, mx := max r.mx k, size := d.size }

/-- How a round ends on every platform with the same dictionary: by one of R910's errors or without room, before its
first write; else by what the platform says to the writes of its pattern. -/
theorem lzwRound_cases (cap dstA dstN : Nat) (r : LzwRun) (k : Nat) :
    (∃ x r1, x ∈ [ErrCode.unknownCode, .limit, .outOfSpace] ∧ r1.count = r.count + 1 ∧
      ∀ p : Platform, p.lzwDictMax = cap → lzwRound p dstA dstN r k = .failed x (!r.out.isEmpty) r1) ∨
    ∃ e d r1, lzwStep cap r.dict r.prev k = .ok (e, d) ∧ r.out.length + e.length ≤ dstN ∧ r1.count = r.count + 1 ∧
      ∀ p : Platform, p.lzwDictMax = cap → lzwRound p dstA dstN r k =
        if allOk p .write (dstA + r.out.length) e.length = true then .complete (r.after k e d)
        else .failed .busError true r1 := by
  cases hs : lzwStep cap r.dict r.prev k with
  | error x =>
    refine .inl ⟨x, { r with count := r.count + 1, mx := max r.mx k }, ?_, rfl, fun p hp => by rw [lzwRound, hp, hs]⟩
    rw [lzwStep] at hs
    split at hs
    · cases hs
      simp
    · split at hs
      · cases hs
      · split at hs <;> cases hs
        simp
  | ok q =>
    obtain ⟨e, d⟩ := q
    by_cases hroom : dstN < r.out.length + e.length
    · refine .inl ⟨.outOfSpace, { r.after k e d with out := r.out }, by simp, rfl, fun p hp => ?_⟩
      rw [lzwRound, hp, hs]
      exact if_pos hroom
    · refine .inr ⟨e, d, { r.after k e d with out := r.out }, rfl, by omega, rfl, fun p hp => ?_⟩
      rw [lzwRound, hp, hs]
      dsimp only
      rw [if_neg hroom]
      by_cases hw : allOk p .write (dstA + r.out.length) e.length = true
      · rw [if_neg (by simp [hw]), if_pos hw]
        rfl
      · rw [if_pos (by simpa using hw), if_neg hw]
        rfl

/-! ### The loop beside its run where nothing is refused -/

/-- The platform accepts the reads of the `n` stream bits from `q` on, and the writes of the bytes that `r'` has written
beyond those of `r`. -/
def LoopAccepted (p : Platform) (a dstA q n : Nat) (r r' : LzwRun) : Prop :=
  BitsReadable p a q (q + n) ∧ allOk p .write (dstA + r.out.length) (r'.out.length - r.out.length) = true

theorem decodeLoop_gated {p p0 : Platform} {a w dstA dstN : Nat} (hcap : p0.lzwDictMax = p.lzwDictMax)
    (hfree : ∀ k a n, allOk p0 k a n = true) (hw : 0 < w) {k q : Nat} {bits : Bits} {r r' : LzwRun}
    (h : decodeLoop p0 a w dstA dstN k q bits r = .complete r') (hr : r.out.length ≤ dstN) :
    r.out.length ≤ r'.out.length ∧ r'.out.length ≤ dstN ∧
      (LoopAccepted p a dstA q (k * w) r r' → decodeLoop p a w dstA dstN k q bits r = .complete r') ∧
      (¬LoopAccepted p a dstA q (k * w) r r' →
        ∃ late r1, decodeLoop p a w dstA dstN k q bits r = .failed .busError late r1) := by
  induction k generalizing q bits r with
  | zero =>
    cases h
    refine ⟨Nat.le_refl _, hr, fun _ => rfl, fun hno => absurd ⟨fun j h1 h2 => ?_, ?_⟩ hno⟩
    · omega
    · rw [Nat.sub_self]
      rfl
  | succ k ih =>
    rw [decodeLoop, if_neg (by simp [codeReadable, hfree])] at h
    rw [decodeLoop]
    rcases lzwRound_cases p.lzwDictMax dstA dstN r (uint (bits.take w)) with
      ⟨x, r1, -, -, hround⟩ | ⟨e, d, r1, -, hroom, -, hround⟩
    · rw [hround p0 hcap] at h
      cases h
    · rw [hround p0 hcap, if_pos (hfree ..)] at h
      have hout : (r.after (uint (bits.take w)) e d).out.length = r.out.length + e.length := List.length_append
      obtain ⟨hle, hle', hgo, hstop⟩ := ih h (by rw [hout]; exact hroom)
      rw [hout] at hle
      have hlen : r'.out.length - r.out.length = e.length + (r'.out.length - (r.out.length + e.length)) := by omega
      have hbits : q + (k + 1) * w = q + (w + k * w) := by ring
      rw [LoopAccepted, hout] at hgo hstop
      rw [LoopAccepted, hlen, allOk_add, Bool.and_eq_true, Nat.add_assoc, hbits, bitsReadable_append,
        ← codeReadable_iff hw]
      refine ⟨by omega, hle', ?_⟩
      by_cases hc : codeReadable p a q w = true
      · rw [if_neg (by simp [hc]), hround p rfl]
        by_cases hwr : allOk p .write (dstA + r.out.length) e.length = true
        · rw [if_pos hwr]
          exact ⟨fun hok => hgo ⟨hok.1.2, hok.2.2⟩, fun hno => hstop fun hok => hno ⟨⟨hc, hok.1⟩, hwr, hok.2⟩⟩
        · rw [if_neg hwr]
          exact ⟨fun hok => absurd hok.2.1 hwr, fun _ => ⟨_, _, rfl⟩⟩
      · rw [if_pos (by simpa using hc)]
        exact ⟨fun hok => absurd hok.1.1 hc, fun _ => ⟨_, _, rfl⟩⟩

/-- R912's loop over the stream in SRC. -/
def State.lzwLoop (s : State) (w z k : Nat) : LzwEnd :=
  decodeLoop s.plat (s.srcA + 1) w s.dstA s.dstN k (z + 1)
    ((bitsOf (s.mem.peek (s.srcA + 1) (s.srcN - 1))).drop (z + 1)) LzwRun.start

theorem lzwPayload_of_complete {w z k : Nat} {s : State} {r : LzwRun} (h : s.lzwLoop w z k = .complete r) :
    lzwPayload w z k s = writeDst r.out r.out.length (s.setLzw w r.mx r.count r.size) := by
  rw [State.lzwLoop] at h
  rw [lzwPayload, h]

theorem lzwPayload_of_failed {w z k : Nat} {s : State} {x : ErrCode} {late : Bool} {r : LzwRun}
    (h : s.lzwLoop w z k = .failed x late r) :
    lzwPayload w z k s = raiseAt late x (s.setLzw w r.mx r.count r.size) := by
  rw [State.lzwLoop] at h
  rw [lzwPayload, h]

theorem busError_raiseAt (late : Bool) (s : State) : BusError s (raiseAt late .busError s) := by
  cases late
  · exact ⟨_, rfl, rfl, rfl⟩
  · exact ⟨_, rfl, rfl, rfl⟩

theorem lzwPayload_gated {w z k : Nat} {s v : State} (hw : 0 < w) (h : lzwPayload w z k s.unrestricted = .done v) :
    ∃ n, v.resultLen = BitVec.ofNat 32 n ∧ n ≤ s.dstN ∧
      Gated (BitsReadable s.plat (s.srcA + 1) (z + 1) (z + 1 + k * w) ∧ s.DstWritable n) s v (lzwPayload w z k s) := by
  rcases lzwPayload_cases w z k s.unrestricted with ⟨x, late, r, hr⟩ | ⟨r, hloop, hd⟩
  · rw [hr] at h
    cases h
  · rw [hd] at h
    have hwrite := unrestricted_writeDst r.out r.out.length (s.setLzw w r.mx r.count r.size)
    obtain rfl := Ending.done.inj (hwrite.symm.trans h)
    obtain ⟨-, hle, hgo, hstop⟩ := decodeLoop_gated (p := s.plat) (p0 := s.unrestricted.plat) rfl
      (fun k a n => unrestricted_allOk s k a n) hw hloop (Nat.zero_le _)
    refine ⟨r.out.length, rfl, hle, ?_⟩
    by_cases hok : BitsReadable s.plat (s.srcA + 1) (z + 1) (z + 1 + k * w) ∧ s.DstWritable r.out.length
    · refine .accepted hok ?_
      rw [lzwPayload_of_complete (hgo hok)]
      exact (writeDst_gated r.out r.out.length (s.setLzw w r.mx r.count r.size)).1 hok.2
    · obtain ⟨late, r1, hfail⟩ := hstop hok
      refine .refused hok ?_
      rw [lzwPayload_of_failed hfail]
      exact busError_raiseAt late (s.setLzw w r1.mx r1.count r1.size)

theorem leadingZeros_le {b : Nat} (h : b ≠ 0) : 8 - bitlen b ≤ 7 := by
  rw [bitlen, if_neg h]
  omega

theorem lzwDecompressBody_gated {s v : State} (h : lzwDecompressBody s.unrestricted = .done v) :
    Gated (Accepts .lzwDecompress s v) s v (lzwDecompressBody s) := by
  simp only [lzwDecompressBody, unrestricted_memRead, ite_raised_eq_done] at h
  simp only [unrestricted_srcN, unrestricted_srcA, unrestricted_mem] at h
  obtain ⟨hn, hhigh, hw, hfirst, hcodes, hv⟩ := h
  obtain ⟨n, hlen, hcap, hg⟩ := lzwPayload_gated (Nat.pos_of_ne_zero hw) hv
  have hz := leadingZeros_le hfirst
  rw [not_or, not_not] at hcodes
  rw [Nat.div_mul_cancel (Nat.dvd_of_mod_eq_zero hcodes.2),
    show ∀ z, z + 1 + (8 * (s.srcN - 1) - z - 1) = max (z + 1) (8 * (s.srcN - 1)) by omega] at hg
  have hreads := container_reads (p := s.plat) (a := s.srcA) (n := s.srcN) hz (by omega)
  rw [lzwDecompressBody, if_neg hn]
  by_cases hhead : allOk s.plat .read s.srcA 1 = true
  · rw [memRead_of_allOk hhead]
    dsimp only
    rw [if_neg hhigh, if_neg hw]
    by_cases hnext : allOk s.plat .read (s.srcA + 1) 1 = true
    · rw [memRead_of_allOk hnext]
      dsimp only
      rw [if_neg hfirst, if_neg (by rwa [not_or, not_not])]
      refine hg.congr ?_
      rw [accepts_iff_of_usesDst rfl hlen hcap, bytesRead, hreads, max_eq_right (by omega)]
      simp [hhead, hnext]
    · rw [memRead_of_refused hnext]
      exact .refused (not_accepts_of_refused fun h => hnext (hreads.mp h).2.1) (busError_raised s)
  · rw [memRead_of_refused hhead]
    exact .refused (not_accepts_of_refused fun h => hhead (hreads.mp h).1) (busError_raised s)

/-! ### What a late error leaves in CODE_COUNT -/

/-- Where R912's loop stands in a dictionary of `cap` entries: every code but the first has added an entry, and nothing is
written before the first code. -/
structure LzwRun.Wf (cap : Nat) (r : LzwRun) : Prop where
  unwritten : r.count = 0 → r.out = []
  first : r.prev = none → r.count = 0
  grown : r.count + 255 ≤ r.dict.size
  room : r.dict.size ≤ cap

theorem LzwRun.start_wf {cap : Nat} (h : 257 ≤ cap) : LzwRun.start.Wf cap :=
  ⟨fun _ => rfl, fun _ => rfl, Nat.le_succ 255, by
    show 256 + 0 ≤ cap
    omega⟩

theorem add_size {cap : Nat} {d d' : Dict} {p : Pattern} (h : d.add cap p = some d') :
    d.size ≠ cap ∧ d'.size = d.size + 1 := by
  rw [Dict.add] at h
  split at h
  · cases h
  · next hne =>
    cases h
    exact ⟨hne, by simp [Dict.size, Nat.add_assoc]⟩

theorem LzwRun.Wf.after {cap : Nat} {r : LzwRun} (hr : r.Wf cap) {k : Nat} {e : Pattern} {d : Dict}
    (h : lzwStep cap r.dict r.prev k = .ok (e, d)) : (r.after k e d).Wf cap := by
  have hgrown := hr.grown
  have hroom := hr.room
  have hsize : r.count + 256 ≤ d.size ∧ d.size ≤ cap := by
    rw [lzwStep] at h
    split at h
    · cases h
    · split at h
      · next hprev =>
        cases h
        have hzero := hr.first hprev
        have hseed : 256 ≤ r.dict.size := Nat.le_add_right ..
        omega
      · split at h
        · cases h
        · next hadd =>
          cases h
          obtain ⟨hne, hsz⟩ := add_size hadd
          omega
  refine ⟨fun h0 => absurd h0 (Nat.succ_ne_zero _), fun h0 => (Option.some_ne_none e h0).elim, ?_, hsize.2⟩
  show r.count + 1 + 255 ≤ d.size
  omega

/-- One turn of R912's loop: a refused read, an error of its round, or the rest of the loop. -/
theorem decodeLoop_succ (p : Platform) (a w dstA dstN k q : Nat) (bits : Bits) (r : LzwRun) :
    decodeLoop p a w dstA dstN (k + 1) q bits r = .failed .busError (!r.out.isEmpty) r ∨
      (∃ x late r1, decodeLoop p a w dstA dstN (k + 1) q bits r = .failed x late r1 ∧
        x ∈ [ErrCode.unknownCode, .limit, .outOfSpace, .busError] ∧ r1.count = r.count + 1 ∧
        (late = true → x = .busError ∨ r.out ≠ [])) ∨
      ∃ c e d, lzwStep p.lzwDictMax r.dict r.prev c = .ok (e, d) ∧
        decodeLoop p a w dstA dstN (k + 1) q bits r =
          decodeLoop p a w dstA dstN k (q + w) (bits.drop w) (r.after c e d) := by
  rw [decodeLoop]
  by_cases hc : codeReadable p a q w = true
  · rw [if_neg (by simp [hc])]
    rcases lzwRound_cases p.lzwDictMax dstA dstN r (uint (bits.take w)) with
      ⟨x, r1, hx, hcount, hround⟩ | ⟨e, d, r1, hstep, -, hcount, hround⟩
    · rw [hround p rfl]
      refine .inr (.inl ⟨x, _, r1, rfl, List.mem_append_left [ErrCode.busError] hx, hcount, fun h => .inr ?_⟩)
      simpa using h
    · rw [hround p rfl]
      by_cases hw : allOk p .write (dstA + r.out.length) e.length = true
      · rw [if_pos hw]
        exact .inr (.inr ⟨_, e, d, hstep, rfl⟩)
      · rw [if_neg hw]
        exact .inr (.inl ⟨_, _, r1, rfl, by simp, hcount, fun _ => .inl rfl⟩)
  · rw [if_pos (by simpa using hc)]
    exact .inl rfl

theorem decodeLoop_complete {p : Platform} {a w dstA dstN k q : Nat} {bits : Bits} {r r' : LzwRun}
    (h : decodeLoop p a w dstA dstN k q bits r = .complete r') (hr : r.Wf p.lzwDictMax) :
    r'.Wf p.lzwDictMax ∧ r'.count = r.count + k := by
  induction k generalizing q bits r with
  | zero =>
    cases h
    exact ⟨hr, rfl⟩
  | succ k ih =>
    rcases decodeLoop_succ p a w dstA dstN k q bits r with hrun | ⟨x, late, r1, hrun, -⟩ | ⟨c, e, d, hstep, hrun⟩
    · rw [hrun] at h
      cases h
    · rw [hrun] at h
      cases h
    · rw [hrun] at h
      obtain ⟨hwf, hcount⟩ := ih h (hr.after hstep)
      refine ⟨hwf, hcount.trans ?_⟩
      show r.count + 1 + k = r.count + (k + 1)
      omega

/-- The loop raises R910's errors, OUT_OF_SPACE and BUS_ERROR only; an error after the first write finds a code counted,
and a second one where it is that code's own. -/
theorem decodeLoop_failed {p : Platform} {a w dstA dstN k q : Nat} {bits : Bits} {r r1 : LzwRun} {x : ErrCode}
    {late : Bool} (h : decodeLoop p a w dstA dstN k q bits r = .failed x late r1) :
    x ∈ [ErrCode.unknownCode, .limit, .outOfSpace, .busError] ∧
      (r.Wf p.lzwDictMax →
        r1.count ≤ p.lzwDictMax ∧ (late = true → 1 ≤ r1.count ∧ (x ≠ .busError → 2 ≤ r1.count))) := by
  induction k generalizing q bits r with
  | zero => cases h
  | succ k ih =>
    have hwritten : r.Wf p.lzwDictMax → r.out ≠ [] → 1 ≤ r.count := fun hr hout =>
      Nat.one_le_iff_ne_zero.mpr fun h0 => hout (hr.unwritten h0)
    have hbound : r.Wf p.lzwDictMax → r.count + 1 ≤ p.lzwDictMax := fun hr => by
      have hgrown := hr.grown
      have hroom := hr.room
      omega
    rcases decodeLoop_succ p a w dstA dstN k q bits r with
      hrun | ⟨y, l, r2, hrun, hy, hcount, hlate⟩ | ⟨c, e, d, hstep, hrun⟩
    · rw [hrun] at h
      cases h
      refine ⟨by simp, fun hr => ⟨(Nat.le_succ _).trans (hbound hr), fun hl => ?_⟩⟩
      exact ⟨hwritten hr (by simpa using hl), fun hx => absurd rfl hx⟩
    · rw [hrun] at h
      cases h
      refine ⟨hy, fun hr => ⟨hcount ▸ hbound hr, fun hl => ⟨by omega, fun hx => ?_⟩⟩⟩
      have := hwritten hr ((hlate hl).resolve_left hx)
      omega
    · rw [hrun] at h
      obtain ⟨hx, hwf⟩ := ih h
      exact ⟨hx, fun hr => hwf (hr.after hstep)⟩

end Sys2Proof.Machine
end

section
/-! PROOF. Which errors a command raises once it may have written, and so which leave memory as it was (R162, R163). -/

namespace Sys2Proof.Machine

/-- Every raise that the part of a command can end in, with the state it leaves. -/
def RaisesOnly (P : ErrCode → State → Prop) (e : Ending) : Prop := ∀ x n w, e = .raised x n w → P x w

namespace RaisesOnly

variable {P : ErrCode → State → Prop}

theorem raised {x : ErrCode} {n : Nat} {w : State} (h : P x w) : RaisesOnly P (.raised x n w) := by
  rintro y m v ⟨⟩
  exact h

theorem done (s : State) : RaisesOnly P (.done s) := fun _ _ _ h => by cases h

theorem stuck (f : Fault) : RaisesOnly P (.stuck f) := fun _ _ _ h => by cases h

theorem ite {c : Prop} [Decidable c] {e1 e2 : Ending} (h1 : c → RaisesOnly P e1) (h2 : ¬c → RaisesOnly P e2) :
    RaisesOnly P (if c then e1 else e2) := by
  by_cases hc : c
  · rw [if_pos hc]
    exact h1 hc
  · rw [if_neg hc]
    exact h2 hc

theorem andThen {e : Ending} {k : State → Ending} (he : RaisesOnly P e) (hk : ∀ v, e = .done v → RaisesOnly P (k v)) :
    RaisesOnly P (e.andThen k) := by
  cases e with
  | done v => exact hk v rfl
  | raised x n s => exact he
  | stuck f => exact he

end RaisesOnly

/-- How a command launched in `s` can raise `x` in a state `w` (R162, R163): before its first write; by a wrong length
or by a refused byte of DST; and in LZW_DECOMPRESS at a code, which CODE_COUNT tells. -/
inductive RaisedIn (i : Instr) (s : State) : ErrCode → State → Prop where
  | early {x w} (h : w.mem = s.mem) : RaisedIn i s x w
  | wrongLength {w} : RaisedIn i s .lengthMismatch w
  | refusedWrite {w} (hdst : usesDst i = true) (hi : i ≠ .lzwDecompress)
      (h : s.TreeInv → ¬ s.DstWritable s.dstN) : RaisedIn i s .busError w
  | atCode {x w} (hi : i = .lzwDecompress) (hx : x ∈ [ErrCode.unknownCode, .limit, .outOfSpace, .busError])
      (h : s.plat.wf = true →
        (x = .busError → w.codeCount ≠ 0#32) ∧ (x ≠ .busError → w.codeCount ≠ 1#32)) : RaisedIn i s x w

theorem raises_early {i : Instr} {s : State} (x : ErrCode) (n : Nat) {w : State} (h : w.mem = s.mem) :
    RaisesOnly (RaisedIn i s) (.raised x n w) := .raised (.early h)

theorem raises_writeDst {i : Instr} {s s' : State} {out : List Byte} (n : Nat) (hdst : usesDst i = true)
    (hi : i ≠ .lzwDecompress) (hplat : s'.plat = s.plat) (hlatch : s'.latch = s.latch)
    (hlen : s.TreeInv → out.length ≤ s.dstN) : RaisesOnly (RaisedIn i s) (writeDst out n s') := by
  rcases writeDst_cases out n s' with ⟨-, h⟩ | ⟨hno, h⟩
  · rw [h]
    exact .done _
  · rw [h]
    refine .raised (.refusedWrite hdst hi fun hinv hw => ?_)
    have hsub := hw.of_le (hlen hinv)
    rw [State.DstWritable, State.dstA, ← hplat, ← hlatch] at hsub
    exact Bool.false_ne_true (hno.symm.trans hsub)

/-! ### Commands that do not write memory -/

theorem nopBody_raises (s : State) : RaisesOnly (RaisedIn .nop s) (nopBody s) := .done _

theorem clearBody_raises (s : State) : RaisesOnly (RaisedIn .clear s) (clearBody s) := .done _

theorem treeBuildBody_raises (s : State) : RaisesOnly (RaisedIn .treeBuild s) (treeBuildBody s) :=
  .ite (fun _ => raises_early _ _ rfl) fun _ => .ite (fun _ => raises_early _ _ rfl) fun _ => .done _

theorem codesBody_raises {P : ErrCode → State → Prop} (s : State) : RaisesOnly P (codesBody s) := by
  rcases codesBody_cases s with ⟨-, h⟩ | ⟨t, -, h⟩
  · rw [h]
    exact .stuck _
  · rw [h]
    exact .done _

theorem codeGenBody_raises (s : State) : RaisesOnly (RaisedIn .codeGen s) (codeGenBody s) :=
  .ite (fun _ => raises_early _ _ rfl) fun _ => (codesBody_raises s).andThen fun _ _ => .done _

theorem freqBody_raises (i : Instr) (s : State) : RaisesOnly (RaisedIn i s) (freqBody s) := by
  rcases freqBody_cases s with ⟨-, h⟩ | ⟨-, h⟩
  · rw [h]
    exact .done _
  · rw [h]
    exact raises_early _ _ rfl

theorem freqCountBody_raises (s : State) : RaisesOnly (RaisedIn .freqCount s) (freqCountBody s) :=
  .ite (fun _ => raises_early _ _ rfl) fun _ => (freqBody_raises _ s).andThen fun _ _ => .done _

theorem deserializeBody_raises (i : Instr) (a n : Nat) {s s' : State} (hmem : s'.mem = s.mem) :
    RaisesOnly (RaisedIn i s) (deserializeBody a n s') := by
  rcases deserializeBody_cases a n s' with ⟨x, -, h⟩ | h | ⟨l, -, -, -, -, -, -, h⟩
  · rw [h]
    exact raises_early _ _ hmem
  · rw [h]
    exact raises_early _ _ hmem
  · rw [h]
    rcases parseBody_cases l (s'.mem.peek (a + 2) (treeBytes l)) s' with ⟨ns, hp⟩ | ⟨p, r, -, -, -, hp⟩
    · rw [hp]
      exact raises_early _ _ hmem
    · rw [hp]
      exact .done _

theorem treeDeserializeBody_raises (s : State) : RaisesOnly (RaisedIn .treeDeserialize s) (treeDeserializeBody s) :=
  (deserializeBody_raises _ _ _ rfl).andThen fun _ _ => .done _

/-! ### Commands that write DST -/

theorem treeSerializeBody_raises (s : State) : RaisesOnly (RaisedIn .treeSerialize s) (treeSerializeBody s) := by
  refine .ite (fun _ => raises_early _ _ rfl) fun hvalid => .ite (fun _ => raises_early _ _ rfl) fun hcap => ?_
  cases ht : s.tree with
  | none => exact .stuck _
  | some t =>
    refine raises_writeDst _ rfl (by decide) rfl rfl fun hinv => ?_
    rw [ser_length, tree_leaves_length (hinv (by simpa using hvalid)) ht]
    omega

theorem bitPackBody_raises (s : State) : RaisesOnly (RaisedIn .bitPack s) (bitPackBody s) := by
  refine .ite (fun _ => raises_early _ _ rfl) fun _ => .ite (fun _ => raises_early _ _ rfl) fun hn => ?_
  refine .ite (fun _ => raises_early _ _ rfl) fun _ => .ite (fun _ => raises_early _ _ rfl) fun hr => ?_
  refine .ite (fun _ => raises_early _ _ rfl) fun hcap => raises_writeDst _ rfl (by decide) rfl rfl fun _ => ?_
  have hr : allOk s.plat .read s.srcA s.srcN = true := by simpa using hr
  rw [readable_of_allOk hr] at hcap ⊢
  rw [packCodes_length _ _ (src_ne_nil hn)]
  omega

/-- A raise of R712's loop: late by a wrong length, or by one of the at most `n` symbols that DST refuses. -/
theorem unpackBody_raises {i : Instr} {s s' : State} (a m : Nat) {n : Nat} (hdst : usesDst i = true)
    (hi : i ≠ .lzwDecompress) (hmem : s'.mem = s.mem) (hplat : s'.plat = s.plat) (hlatch : s'.latch = s.latch)
    (hn : n ≤ s.dstN) : RaisesOnly (RaisedIn i s) (unpackBody a m n s') := by
  rw [unpackBody]
  rcases memRead_cases s'.plat s'.mem a 1 with h | h <;> rw [h]
  · exact raises_early _ _ hmem
  refine .ite (fun _ => raises_early _ _ hmem) fun _ => ?_
  cases s'.tree with
  | none => exact .stuck _
  | some t =>
    have hlen := (decodeMany_length_le t n (payloadBits (s'.mem.peek a m))).trans hn
    refine .ite (fun _ => raises_early _ _ hmem) fun _ => .ite (fun hw => ?_) fun _ => ?_
    · refine .raised (.refusedWrite hdst hi fun _ hall => ?_)
      have hsub := hall.of_le hlen
      rw [State.DstWritable, State.dstA, ← hplat, ← hlatch] at hsub
      rw [State.dstA, hsub] at hw
      exact Bool.false_ne_true hw
    · refine .ite (fun _ => .raised .wrongLength) fun _ => .ite (fun _ => .raised .wrongLength) fun _ => ?_
      exact raises_writeDst _ hdst hi hplat hlatch fun _ => hlen

theorem bitUnpackBody_raises (s : State) : RaisesOnly (RaisedIn .bitUnpack s) (bitUnpackBody s) := by
  refine .ite (fun _ => raises_early _ _ rfl) fun _ => .ite (fun _ => raises_early _ _ rfl) fun _ => ?_
  refine .ite (fun _ => raises_early _ _ rfl) fun _ => .ite (fun _ => raises_early _ _ rfl) fun hcap => ?_
  exact unpackBody_raises _ _ rfl (by decide) rfl rfl rfl (by omega)

theorem hufWrite_raises {s s' : State} {t : Tree} (ht : TablesReady s' t) (hmem : s'.mem = s.mem)
    (hplat : s'.plat = s.plat) (hlatch : s'.latch = s.latch) : RaisesOnly (RaisedIn .hufCompress s) (hufWrite s') := by
  refine .ite (fun _ => raises_early _ _ hmem) fun _ => .ite (fun _ => raises_early _ _ hmem) fun hcap => ?_
  have htree : (s'.setOrigLen s'.srcN).tree = some t := ht.tree
  rw [htree]
  refine raises_writeDst _ rfl (by decide) hplat hlatch fun _ => ?_
  have hlen := hufContainer_length (k := (s'.setOrigLen s'.srcN).srcN) (bits := (s'.setOrigLen s'.srcN).codeBits)
    ht.leaves ht.weights (src_ne_nil ht.srcNonempty)
  rw [State.dstN, ← hlatch]
  exact hlen.trans_le (Nat.not_lt.mp hcap)

theorem hufCompressBody_raises (s : State) : RaisesOnly (RaisedIn .hufCompress s) (hufCompressBody s) := by
  refine .ite (fun _ => raises_early _ _ rfl) fun hn => (freqBody_raises _ s).andThen fun s1 h1 => ?_
  obtain ⟨t, ht⟩ := stages_ready hn
  rw [freqBody_done h1, codesBody_of_tree (s := buildBody s.countedSrc) ht.tree, andThen_done]
  exact hufWrite_raises ht rfl rfl rfl

theorem hufDecompressBody_raises (s : State) : RaisesOnly (RaisedIn .hufDecompress s) (hufDecompressBody s) := by
  refine .ite (fun _ => raises_early _ _ rfl) fun _ => ?_
  rcases memRead_cases s.plat s.mem s.srcA 4 with h | h <;> rw [h]
  · exact raises_early _ _ rfl
  refine .ite (fun _ => raises_early _ _ rfl) fun _ => ?_
  refine .andThen (deserializeBody_raises _ _ _ ?_) fun s1 h1 => ?_
  · rfl
  obtain ⟨ns, l, rfl, -⟩ := deserializeBody_done h1
  refine .ite (fun _ => raises_early _ _ rfl) fun _ => .ite (fun _ => raises_early _ _ rfl) fun hcap => ?_
  exact unpackBody_raises _ _ rfl (by decide) rfl rfl rfl (Nat.not_lt.mp hcap)

theorem lzwCompressBody_raises (s : State) : RaisesOnly (RaisedIn .lzwCompress s) (lzwCompressBody s) := by
  refine .ite (fun _ => raises_early _ _ rfl) fun _ => ?_
  cases henc : lzwEncode s.plat.lzwDictMax (readable s.plat s.mem s.srcA s.srcN) with
  | none => exact raises_early _ _ rfl
  | some q =>
    refine .ite (fun _ => raises_early _ _ rfl) fun _ => .ite (fun _ => raises_early _ _ rfl) fun _ => ?_
    refine .ite (fun _ => raises_early _ _ rfl) fun hcap => raises_writeDst _ rfl (by decide) rfl rfl fun _ => ?_
    rw [lzwContainer_length _ (encodeLoop_codes_ne_nil henc)]
    exact Nat.not_lt.mp hcap

/-! ### LZW_DECOMPRESS -/

/-- A count that fits its register is read back as itself, so no smaller number is (R70). -/
theorem register_ne_of_lt {count c : Nat} (hlt : count < 2 ^ 32) (hc : c < count) :
    BitVec.ofNat 32 count ≠ BitVec.ofNat 32 c := by
  intro h
  have h := congrArg BitVec.toNat h
  simp only [BitVec.toNat_ofNat] at h
  omega

theorem lzwPayload_raises (w z : Nat) {k : Nat} (hk : k ≠ 0) (s : State) :
    RaisesOnly (RaisedIn .lzwDecompress s) (lzwPayload w z k s) := by
  have hcap : s.plat.wf = true → 257 ≤ s.plat.lzwDictMax ∧ s.plat.lzwDictMax ≤ 2 ^ 31 := by
    intro h
    simp only [Platform.wf, Bool.and_eq_true, decide_eq_true_eq] at h
    exact h.1.1
  cases hloop : s.lzwLoop w z k with
  | failed x late r =>
    obtain ⟨hx, hcount⟩ := decodeLoop_failed hloop
    rw [lzwPayload_of_failed hloop, raiseAt_eq]
    cases late with
    | false => exact raises_early _ _ rfl
    | true =>
      refine .raised (.atCode rfl hx fun hwf => ?_)
      obtain ⟨hmin, hmax⟩ := hcap hwf
      obtain ⟨hle, hlate⟩ := hcount (LzwRun.start_wf hmin)
      obtain ⟨hone, htwo⟩ := hlate rfl
      exact ⟨fun _ => register_ne_of_lt (by omega) hone, fun hne => register_ne_of_lt (by omega) (htwo hne)⟩
  | complete r =>
    rw [lzwPayload_of_complete hloop]
    rcases writeDst_cases r.out r.out.length (s.setLzw w r.mx r.count r.size) with ⟨-, h⟩ | ⟨-, h⟩
    · rw [h]
      exact .done _
    · rw [h]
      refine .raised (.atCode rfl (by simp) fun hwf => ⟨fun _ => ?_, fun hne => absurd rfl hne⟩)
      obtain ⟨hmin, hmax⟩ := hcap hwf
      obtain ⟨hr, hcount⟩ := decodeLoop_complete hloop (LzwRun.start_wf hmin)
      have hgrown := hr.grown
      have hroom := hr.room
      have hcount : r.count = 0 + k := hcount
      exact register_ne_of_lt (by omega) (by omega)

theorem lzwDecompressBody_raises (s : State) : RaisesOnly (RaisedIn .lzwDecompress s) (lzwDecompressBody s) := by
  refine .ite (fun _ => raises_early _ _ rfl) fun hn => ?_
  rcases memRead_cases s.plat s.mem s.srcA 1 with h | h <;> rw [h]
  · exact raises_early _ _ rfl
  refine .ite (fun _ => raises_early _ _ rfl) fun _ => .ite (fun _ => raises_early _ _ rfl) fun hw => ?_
  rcases memRead_cases s.plat s.mem (s.srcA + 1) 1 with h | h <;> rw [h]
  · exact raises_early _ _ rfl
  refine .ite (fun _ => raises_early _ _ rfl) fun _ => .ite (fun _ => raises_early _ _ rfl) fun hb => ?_
  refine lzwPayload_raises _ _ (fun h0 => hb ?_) s
  rw [not_or, not_not] at hb
  have hdvd := Nat.div_mul_cancel (Nat.dvd_of_mod_eq_zero hb.2)
  rw [h0, Nat.zero_mul] at hdvd
  exact .inl hdvd.symm

end Sys2Proof.Machine
end

section
/-! PROOF. O11, assembled: every command beside its run where nothing is refused, and the errors that leave memory as it
was. -/

namespace Sys2Proof.Machine

/-! ### Which error a completion reports -/

/-- The error of an ECODE (R1000). -/
def errOfCode (c : BitVec 4) : Option ErrCode :=
  [ErrCode.emptyInput, .noGain, .corruptTree, .unknownCode, .lengthMismatch, .format, .limit, .outOfSpace, .badCommand,
    .badArgs, .busError, .sequence, .noCode][c.toNat - 1]?

theorem errOfCode_code (e : ErrCode) : errOfCode e.code = some e := by cases e <;> rfl

theorem code_injective {e e' : ErrCode} (h : e.code = e'.code) : e = e' := by
  have h := congrArg errOfCode h
  rwa [errOfCode_code, errOfCode_code, Option.some.injEq] at h

theorem code_ne_zero (e : ErrCode) : e.code ≠ 0#4 := fun h => by
  have h1 := (code_range e).1
  rw [h] at h1
  exact absurd h1 (by decide)

/-- A completion with ECODE 0 comes from the last line of the pseudocode (R303). -/
theorem finish_completed {e : Ending} {u : State} (h : e.finish = .next u) (h0 : u.status.ecode = 0#4) :
    ∃ v, e = .done v ∧ u = v.complete v.status.completed := by
  rcases finish_next h with hd | ⟨x, n, w, -, rfl⟩
  · exact hd
  · exact absurd h0 (code_ne_zero x)

/-- A completion with an error's ECODE comes from a raise of that error (R303). -/
theorem finish_failed {b : Ending} {t : State} {e : ErrCode} {P : ErrCode → State → Prop} (hb : RaisesOnly P b)
    (h : b.finish = .next t) (he : t.status.ecode = e.code) :
    ∃ w, P e w ∧ t.mem = w.mem ∧ t.codeCount = w.codeCount := by
  rcases finish_next h with ⟨v, -, rfl⟩ | ⟨x, n, w, hx, rfl⟩
  · exact absurd he.symm (code_ne_zero e)
  · obtain rfl := code_injective he
    exact ⟨w, hb _ _ _ hx, rfl, rfl⟩

/-! ### Refused accesses -/

/-- How a command that completes in `u` where nothing is refused ends, as `o`, on the platform of `s`. -/
def EndsAsAccepted (i : Instr) (s u : State) (o : Host.Outcome State Fault Refusal) : Prop :=
  (Accepts i s u → o = .next (u.onPlat s.plat)) ∧ (¬Accepts i s u → ∃ t, o = .next t ∧ Failed .busError 0 s t)

theorem finish_accepted {i : Instr} {s u : State} {body : State → Ending}
    (hb : ∀ v, body s.unrestricted = .done v → Gated (Accepts i s v) s v (body s))
    (h : (body s.unrestricted).finish = .next u) (h0 : u.status.ecode = 0#4) :
    EndsAsAccepted i s u (body s).finish := by
  obtain ⟨v, hv, rfl⟩ := finish_completed h h0
  obtain ⟨hok, hno⟩ := hb v hv
  have hreads : bytesRead i s.srcN (v.complete v.status.completed) = bytesRead i s.srcN v := by cases i <;> rfl
  have hiff : Accepts i s (v.complete v.status.completed) ↔ Accepts i s v := by
    rw [Accepts, Accepts, hreads, complete_resultLen]
  refine ⟨fun ha => ?_, fun ha => ?_⟩
  · rw [hok (hiff.mp ha)]
    rfl
  · obtain ⟨w, hw, hdone, hdropped⟩ := hno fun hv => ha (hiff.mpr hv)
    rw [hw]
    exact ⟨_, rfl, rfl, rfl, rfl, hdone, hdropped, rfl⟩

theorem windowed_accepted {i : Instr} {s u : State} {body : State → Ending} (hd : s.disturbed = false)
    (hb : ∀ v, body s.unrestricted = .done v → Gated (Accepts i s v) s v (body s))
    (h : windowed i body s.unrestricted = .next u) (h0 : u.status.ecode = 0#4) :
    EndsAsAccepted i s u (windowed i body s) := by
  rcases windowed_next h with ⟨hdist, -⟩ | ⟨-, hw, hfin⟩ | ⟨-, -, rfl⟩
  · exact absurd (hd.symm.trans hdist) Bool.false_ne_true
  · rw [windowed_run hd hw]
    exact finish_accepted hb hfin h0
  · exact absurd h0 (code_ne_zero .badArgs)

/-- R13, R1011, for every command. -/
theorem exec_accepted {i : Instr} {s u : State} (hd : s.disturbed = false) (hinv : s.TreeInv)
    (h : exec i s.unrestricted = .next u) (h0 : u.status.ecode = 0#4) : EndsAsAccepted i s u (exec i s) := by
  cases i with
  | nop => exact finish_accepted (fun _ => nopBody_gated) h h0
  | clear => exact finish_accepted (fun _ => clearBody_gated) h h0
  | freqCount => exact windowed_accepted hd (fun _ => freqCountBody_gated) h h0
  | treeBuild => exact finish_accepted (fun _ => treeBuildBody_gated) h h0
  | codeGen => exact finish_accepted (fun _ => codeGenBody_gated) h h0
  | treeSerialize => exact windowed_accepted hd (fun _ => treeSerializeBody_gated hinv) h h0
  | treeDeserialize => exact windowed_accepted hd (fun _ => treeDeserializeBody_gated) h h0
  | bitPack => exact windowed_accepted hd (fun _ => bitPackBody_gated) h h0
  | bitUnpack => exact windowed_accepted hd (fun _ => bitUnpackBody_gated hinv) h h0
  | hufCompress => exact windowed_accepted hd (fun _ => hufCompressBody_gated) h h0
  | hufDecompress => exact windowed_accepted hd (fun _ => hufDecompressBody_gated) h h0
  | lzwCompress => exact windowed_accepted hd (fun _ => lzwCompressBody_gated) h h0
  | lzwDecompress => exact windowed_accepted hd (fun _ => lzwDecompressBody_gated) h h0

/-! ### Early errors -/

theorem windowed_failed {i : Instr} {s t : State} {e : ErrCode} {body : State → Ending} (hd : s.disturbed = false)
    (hb : RaisesOnly (RaisedIn i s) (body s)) (h : windowed i body s = .next t) (he : t.status.ecode = e.code) :
    ∃ w, RaisedIn i s e w ∧ t.mem = w.mem ∧ t.codeCount = w.codeCount := by
  rcases windowed_next h with ⟨hdist, -⟩ | ⟨-, -, hfin⟩ | ⟨-, -, rfl⟩
  · exact absurd (hd.symm.trans hdist) Bool.false_ne_true
  · exact finish_failed hb hfin he
  · exact ⟨s, .early rfl, rfl, rfl⟩

/-- How a command that ends with an error has raised it. -/
theorem exec_failed {i : Instr} {s t : State} {e : ErrCode} (hd : s.disturbed = false) (h : exec i s = .next t)
    (he : t.status.ecode = e.code) : ∃ w, RaisedIn i s e w ∧ t.mem = w.mem ∧ t.codeCount = w.codeCount := by
  cases i with
  | nop => exact finish_failed (nopBody_raises s) h he
  | clear => exact finish_failed (clearBody_raises s) h he
  | freqCount => exact windowed_failed hd (freqCountBody_raises s) h he
  | treeBuild => exact finish_failed (treeBuildBody_raises s) h he
  | codeGen => exact finish_failed (codeGenBody_raises s) h he
  | treeSerialize => exact windowed_failed hd (treeSerializeBody_raises s) h he
  | treeDeserialize => exact windowed_failed hd (treeDeserializeBody_raises s) h he
  | bitPack => exact windowed_failed hd (bitPackBody_raises s) h he
  | bitUnpack => exact windowed_failed hd (bitUnpackBody_raises s) h he
  | hufCompress => exact windowed_failed hd (hufCompressBody_raises s) h he
  | hufDecompress => exact windowed_failed hd (hufDecompressBody_raises s) h he
  | lzwCompress => exact windowed_failed hd (lzwCompressBody_raises s) h he
  | lzwDecompress => exact windowed_failed hd (lzwDecompressBody_raises s) h he

/-- R162's early errors: the errors that O11 lists for a command that ends in `t`. -/
def EarlyError (i : Instr) (s t : State) (e : ErrCode) : Prop :=
  e ∉ [ErrCode.unknownCode, .lengthMismatch, .busError] ∧ ¬(i = .lzwDecompress ∧ (e = .limit ∨ e = .outOfSpace)) ∨
    e = .busError ∧ i ≠ .lzwDecompress ∧ (usesDst i = true → s.TreeInv ∧ s.DstWritable s.dstN) ∨
    i = .lzwDecompress ∧ s.plat.wf = true ∧
      ((e = .unknownCode ∨ e = .outOfSpace) ∧ t.codeCount = 1#32 ∨ e = .busError ∧ t.codeCount = 0#32)

/-- A listed error is raised before the first write. -/
theorem mem_eq_of_earlyError {i : Instr} {s t w : State} {e : ErrCode} (hraise : RaisedIn i s e w)
    (hcount : t.codeCount = w.codeCount) (hearly : EarlyError i s t e) : w.mem = s.mem := by
  cases hraise with
  | early h => exact h
  | wrongLength => simp [EarlyError] at hearly
  | refusedWrite hdst hi h =>
    rcases hearly with ⟨hnot, -⟩ | ⟨-, -, hkept⟩ | ⟨hlzw, -⟩
    · exact absurd (by simp) hnot
    · obtain ⟨hinv, hw⟩ := hkept hdst
      exact absurd hw (h hinv)
    · exact absurd hlzw hi
  | atCode hi hx h =>
    rcases hearly with ⟨hnot, hlzw⟩ | ⟨-, hne, -⟩ | ⟨-, hwf, hfirst⟩
    · simp only [List.mem_cons, List.not_mem_nil, or_false] at hnot hx
      tauto
    · exact absurd hi hne
    · obtain ⟨hbus, hcode⟩ := h hwf
      rw [hcount] at hfirst
      rcases hfirst with ⟨hx | hx, h1⟩ | ⟨hx, h0⟩
      · exact absurd h1 (hcode (by simp [hx]))
      · exact absurd h1 (hcode (by simp [hx]))
      · exact absurd h0 (hbus hx)

/-- Settles O11: each command is run beside the platform that refuses nothing (`exec_accepted`), and each of its raises
is placed before or after its first write (`exec_failed`). -/
theorem earlyErrorsKeepMemory : Obligations.EarlyErrorsKeepMemory := by
  unfold Obligations.EarlyErrorsKeepMemory
  refine ⟨fun i s u hd hinv hu h0 => exec_accepted hd hinv hu h0, fun i s t e hd ht he hearly a => ?_⟩
  obtain ⟨w, hraise, hmem, hcount⟩ := exec_failed hd ht he
  rw [hmem, mem_eq_of_earlyError hraise hcount hearly]

end Sys2Proof.Machine
end

section
/-! PROOF. The register block as the host sees it: the register map (R53), the bits of STATUS and CTRL (R55, R56), and what
a host write and a host read of each register do (R54, R87 to R90). -/

namespace Sys2Proof.Machine

/-! ### The register map (R53, R75 to R77, R80) -/

theorem regAt_first {o : Nat} (h : o < 0x0400) : regAt o = firstRegs[o / 4]? := if_pos h

theorem regAt_freq {o : Nat} (h1 : 0x0400 ≤ o) (h2 : o < 0x0800) :
    regAt o = some (.freq (BitVec.ofNat 8 ((o - 0x0400) / 4))) := by
  rw [regAt, if_neg (by omega), if_pos h2]

theorem regAt_codeLen {o : Nat} (h1 : 0x0800 ≤ o) (h2 : o < 0x0C00) :
    regAt o = some (.codeLen (BitVec.ofNat 8 ((o - 0x0800) / 4))) := by
  rw [regAt, if_neg (by omega), if_neg (by omega), if_pos h2]

theorem regAt_belowNodes {o : Nat} (h1 : 0x0C00 ≤ o) (h2 : o < 0x1000) : regAt o = none := by
  rw [regAt, if_neg (by omega), if_neg (by omega), if_neg (by omega), if_pos h2]

theorem regAt_node {o : Nat} (h1 : 0x1000 ≤ o) (h2 : o < 0x1FF8) :
    regAt o = if o % 8 = 0 then some (.nodePrio (Fin.ofNat 511 ((o - 0x1000) / 8)))
      else some (.nodeLink (Fin.ofNat 511 ((o - 0x1000) / 8))) := by
  rw [regAt, if_neg (by omega), if_neg (by omega), if_neg (by omega), if_neg (by omega), if_pos h2]

theorem regAt_aboveNodes {o : Nat} (h1 : 0x1FF8 ≤ o) (h2 : o < 0x2000) : regAt o = none := by
  rw [regAt, if_neg (by omega), if_neg (by omega), if_neg (by omega), if_neg (by omega), if_neg (by omega), if_pos h2]

theorem regAt_codeBits {o : Nat} (h1 : 0x2000 ≤ o) (h2 : o < 0x4000) :
    regAt o = some (.codeBits (BitVec.ofNat 8 ((o - 0x2000) / 32)) (Fin.ofNat 8 ((o - 0x2000) / 4 % 8))) := by
  rw [regAt, if_neg (by omega), if_neg (by omega), if_neg (by omega), if_neg (by omega), if_neg (by omega),
    if_neg (by omega), if_pos h2]

theorem regAt_outside {o : Nat} (h : 0x4000 ≤ o) : regAt o = none := by
  rw [regAt, if_neg (by omega), if_neg (by omega), if_neg (by omega), if_neg (by omega), if_neg (by omega),
    if_neg (by omega), if_neg (by omega)]

/-- The offset of every register decodes to it. -/
theorem regAt_offsetOf (r : Reg) : regAt (offsetOf r) = some r := by
  cases r with
  | freq b =>
    have hb := b.isLt
    rw [offsetOf, regAt_freq (by omega) (by omega), show (0x0400 + 4 * b.toNat - 0x0400) / 4 = b.toNat by omega,
      BitVec.ofNat_toNat, BitVec.setWidth_eq]
  | codeLen b =>
    have hb := b.isLt
    rw [offsetOf, regAt_codeLen (by omega) (by omega), show (0x0800 + 4 * b.toNat - 0x0800) / 4 = b.toNat by omega,
      BitVec.ofNat_toNat, BitVec.setWidth_eq]
  | nodePrio i =>
    have hi := i.isLt
    rw [offsetOf, regAt_node (by omega) (by omega), if_pos (by omega),
      show (0x1000 + 8 * i.val - 0x1000) / 8 = i.val by omega, Fin.ofNat_val_eq_self]
  | nodeLink i =>
    have hi := i.isLt
    rw [offsetOf, regAt_node (by omega) (by omega), if_neg (by omega),
      show (0x1004 + 8 * i.val - 0x1000) / 8 = i.val by omega, Fin.ofNat_val_eq_self]
  | codeBits b k =>
    have hb := b.isLt
    have hk := k.isLt
    rw [offsetOf, regAt_codeBits (by omega) (by omega),
      show (0x2000 + 32 * b.toNat + 4 * k.val - 0x2000) / 32 = b.toNat by omega,
      show (0x2000 + 32 * b.toNat + 4 * k.val - 0x2000) / 4 % 8 = k.val by omega, Fin.ofNat_val_eq_self,
      BitVec.ofNat_toNat, BitVec.setWidth_eq]
  | _ => rfl

theorem offsetOf_bounds (r : Reg) : offsetOf r % 4 = 0 ∧ offsetOf r < 0x4000 := by
  cases r with
  | freq b | codeLen b =>
    have hb := b.isLt
    rw [offsetOf]
    omega
  | nodePrio i | nodeLink i =>
    have hi := i.isLt
    rw [offsetOf]
    omega
  | codeBits b k =>
    have hb := b.isLt
    have hk := k.isLt
    rw [offsetOf]
    omega
  | _ => decide

/-- The first registers stand in the order of their offsets. -/
theorem firstRegs_offsets : firstRegs.map offsetOf = (List.range 17).map (4 * ·) := rfl

/-- An aligned offset that decodes to a register is that register's. -/
theorem offsetOf_of_regAt {o : Nat} {r : Reg} (ho : o % 4 = 0) (h : regAt o = some r) : offsetOf r = o := by
  rcases Nat.lt_or_ge o 0x0400 with h1 | h1
  · rw [regAt_first h1] at h
    have hoff := congrArg (fun l => l[o / 4]?) firstRegs_offsets
    simp only [List.getElem?_map, h, Option.map_some] at hoff
    have hlt : o / 4 < 17 := (List.getElem?_eq_some_iff.mp h).1
    rw [List.getElem?_range hlt, Option.map_some, Option.some.injEq] at hoff
    omega
  rcases Nat.lt_or_ge o 0x0800 with h2 | h2
  · rw [regAt_freq h1 h2, Option.some.injEq] at h
    rw [← h, offsetOf, BitVec.toNat_ofNat]
    omega
  rcases Nat.lt_or_ge o 0x0C00 with h3 | h3
  · rw [regAt_codeLen h2 h3, Option.some.injEq] at h
    rw [← h, offsetOf, BitVec.toNat_ofNat]
    omega
  rcases Nat.lt_or_ge o 0x1000 with h4 | h4
  · rw [regAt_belowNodes h3 h4] at h
    cases h
  rcases Nat.lt_or_ge o 0x1FF8 with h5 | h5
  · rw [regAt_node h4 h5] at h
    split at h <;> rw [Option.some.injEq] at h <;> rw [← h, offsetOf, Fin.val_ofNat] <;> omega
  rcases Nat.lt_or_ge o 0x2000 with h6 | h6
  · rw [regAt_aboveNodes h5 h6] at h
    cases h
  rcases Nat.lt_or_ge o 0x4000 with h7 | h7
  · rw [regAt_codeBits h6 h7, Option.some.injEq] at h
    rw [← h, offsetOf, BitVec.toNat_ofNat, Fin.val_ofNat]
    omega
  · rw [regAt_outside h7] at h
    cases h

theorem regAt_eq_none_iff {o : Nat} (ho : o % 4 = 0) (hblock : o < 0x4000) :
    regAt o = none ↔ 0x0044 ≤ o ∧ o < 0x0400 ∨ 0x0C00 ≤ o ∧ o < 0x1000 ∨ 0x1FF8 ≤ o ∧ o < 0x2000 := by
  rcases Nat.lt_or_ge o 0x0400 with h1 | h1
  · rw [regAt_first h1, List.getElem?_eq_none_iff, show firstRegs.length = 17 from rfl]
    omega
  rcases Nat.lt_or_ge o 0x0800 with h2 | h2
  · rw [regAt_freq h1 h2]
    simp only [reduceCtorEq, false_iff]
    omega
  rcases Nat.lt_or_ge o 0x0C00 with h3 | h3
  · rw [regAt_codeLen h2 h3]
    simp only [reduceCtorEq, false_iff]
    omega
  rcases Nat.lt_or_ge o 0x1000 with h4 | h4
  · rw [regAt_belowNodes h3 h4]
    simp only [true_iff]
    omega
  rcases Nat.lt_or_ge o 0x1FF8 with h5 | h5
  · rw [regAt_node h4 h5]
    split <;> simp only [reduceCtorEq, false_iff] <;> omega
  rcases Nat.lt_or_ge o 0x2000 with h6 | h6
  · rw [regAt_aboveNodes h5 h6]
    simp only [true_iff]
    omega
  · rw [regAt_codeBits h6 hblock]
    simp only [reduceCtorEq, false_iff]
    omega

/-- Settles O14: the map's two directions, range by range (`regAt_offsetOf`, `offsetOf_of_regAt`). -/
theorem registerMapIsOneToOne : Obligations.RegisterMapIsOneToOne := by
  unfold Obligations.RegisterMapIsOneToOne
  refine ⟨rfl, fun b i k => ⟨rfl, rfl, rfl, rfl, rfl⟩, fun r => ?_, fun o r => offsetOf_of_regAt,
    fun o => regAt_eq_none_iff⟩
  exact ⟨(offsetOf_bounds r).1, (offsetOf_bounds r).2, regAt_offsetOf r⟩

/-! ### The bits of STATUS and CTRL -/

theorem bitAt_getLsbD {k : Nat} (hk : k < 32) (b : Bool) (n : Nat) : (bitAt k b).getLsbD n = (decide (n = k) && b) := by
  cases b with
  | false => simp [bitAt]
  | true =>
    rw [bitAt, if_pos rfl, BitVec.getLsbD_ofNat, Nat.testBit_two_pow, Bool.and_true, ← Bool.decide_and,
      decide_eq_decide]
    omega

theorem status_word_getLsbD (t : Status) {n : Nat} (hn : n < 32) :
    t.word.getLsbD n =
      (decide (n = 0) && t.busy || decide (n = 1) && t.done || decide (n = 2) && t.err || decide (n = 3) && t.dropped ||
        decide (n = 4) && t.treeValid || decide (n = 5) && t.codesValid ||
        decide (8 ≤ n) && t.ecode.getLsbD (n - 8)) := by
  have hcode : (BitVec.setWidth 32 t.ecode <<< 8).getLsbD n = (decide (8 ≤ n) && t.ecode.getLsbD (n - 8)) := by
    simp only [BitVec.getLsbD_shiftLeft, BitVec.getLsbD_setWidth, hn, decide_true, Bool.true_and,
      show n - 8 < 32 by omega]
    by_cases h8 : n < 8
    · simp [h8, Nat.not_le.mpr h8]
    · simp [h8, Nat.not_lt.mp h8]
  simp (disch := decide) only [Status.word, BitVec.getLsbD_or, bitAt_getLsbD, hcode]

theorem ctrl_word_getLsbD (c : Ctrl) (n : Nat) :
    c.word.getLsbD n = (decide (n = 0) && c.nogainEn || decide (n = 1) && c.irqEn) := by
  rw [Ctrl.word, BitVec.getLsbD_or, bitAt_getLsbD (by decide), bitAt_getLsbD (by decide)]

/-- R56: the word read after a W1C write. -/
theorem w1c_word (v : Word) (t : Status) : (t.w1c v).word = t.word &&& ~~~(v &&& 0x0000000E#32) := by
  refine BitVec.eq_of_getLsbD_eq fun n hn => ?_
  have hmask : (0x0000000E#32).getLsbD n = decide (n = 1 ∨ n = 2 ∨ n = 3) := by
    have hbits : 0x0000000E#32 = bitAt 1 true ||| bitAt 2 true ||| bitAt 3 true := by decide
    rw [hbits, BitVec.getLsbD_or, BitVec.getLsbD_or, bitAt_getLsbD (by decide), bitAt_getLsbD (by decide),
      bitAt_getLsbD (by decide)]
    simp [Bool.or_assoc]
  rw [status_word_getLsbD _ hn, BitVec.getLsbD_and, status_word_getLsbD _ hn, BitVec.getLsbD_not, BitVec.getLsbD_and,
    hmask]
  simp only [Status.w1c, hn, decide_true, Bool.true_and]
  by_cases hw : n = 1 ∨ n = 2 ∨ n = 3
  · rcases hw with rfl | rfl | rfl <;> simp
  · obtain ⟨h1, h2, h3⟩ : n ≠ 1 ∧ n ≠ 2 ∧ n ≠ 3 := by omega
    simp [h1, h2, h3]

/-- R55: CTRL keeps the two fields of the written word. -/
theorem ctrl_ofWord_word (v : Word) : (Ctrl.ofWord v).word = v &&& 3#32 := by
  refine BitVec.eq_of_getLsbD_eq fun n hn => ?_
  have hbits : 3#32 = bitAt 0 true ||| bitAt 1 true := by decide
  rw [ctrl_word_getLsbD, hbits, BitVec.getLsbD_and, BitVec.getLsbD_or, bitAt_getLsbD (by decide),
    bitAt_getLsbD (by decide)]
  by_cases h0 : n = 0
  · simp [h0, Ctrl.ofWord]
  · by_cases h1 : n = 1 <;> simp [h0, h1, Ctrl.ofWord]

/-- Settles O17: the three bits are the fields of CTRL and STATUS. -/
theorem interruptOutputFollowsRegisters : Obligations.InterruptOutputFollowsRegisters := by
  unfold Obligations.InterruptOutputFollowsRegisters
  refine ⟨fun s => ⟨?_, fun line => rfl⟩, rfl⟩
  rw [regValue, regValue, ctrl_word_getLsbD, status_word_getLsbD _ (by decide), status_word_getLsbD _ (by decide)]
  simp [State.irq]

/-! ### Host writes (R54, R88, R301) -/

/-- The registers that a host write sets while no command runs (R88). -/
def ArgWrite (s t : State) : Prop :=
  ∃ a n d c o f, t = { s with srcAddr := a, srcLen := n, dstAddr := d, dstCap := c, origLen := o, freq := f }

/-- Everything a host write can do: nothing; a launch; a drop or a W1C write; a write of CTRL; a write of an argument
register, ORIG_LEN or FREQ while idle. -/
theorem hostWrite_cases (r : Option Reg) (v : Word) (s : State) :
    s.hostWrite r v = s ∨
      (r = some .cmd ∧ s.status.busy = false ∧ s.hostWrite r v = s.launch v) ∨
      (∃ t, (t = s.status.droppedCmd ∨ t = s.status.w1c v) ∧ s.hostWrite r v = s.setStatus t) ∨
      s.hostWrite r v = { s with ctrl := Ctrl.ofWord v } ∨
      (s.status.busy = false ∧ ArgWrite s (s.hostWrite r v)) := by
  cases r with
  | none => exact .inl rfl
  | some r =>
    cases hb : s.status.busy with
    | true =>
      cases r with
      | ctrl => exact .inr (.inr (.inr (.inl rfl)))
      | status => exact .inr (.inr (.inl ⟨_, .inr rfl, rfl⟩))
      | cmd => exact .inr (.inr (.inl ⟨_, .inl rfl, if_pos hb⟩))
      | srcAddr | srcLen | dstAddr | dstCap | origLen | freq b => exact .inl (if_pos hb)
      | _ => exact .inl rfl
    | false =>
      have hidle : ¬ s.status.busy = true := by simp [hb]
      cases r with
      | ctrl => exact .inr (.inr (.inr (.inl rfl)))
      | status => exact .inr (.inr (.inl ⟨_, .inr rfl, rfl⟩))
      | cmd => exact .inr (.inl ⟨rfl, rfl, if_neg hidle⟩)
      | srcAddr | srcLen | dstAddr | dstCap | origLen | freq b =>
        exact .inr (.inr (.inr (.inr ⟨rfl, _, _, _, _, _, _, if_neg hidle⟩)))
      | _ => exact .inl rfl

/-- Settles O13: the W1C write is the masked word (`w1c_word`), and STATUS is the one register it touches. -/
theorem statusBitsClearOnWriteOne : Obligations.StatusBitsClearOnWriteOne := by
  unfold Obligations.StatusBitsClearOnWriteOne
  refine fun s v => ⟨w1c_word v s.status, fun r hr => ?_⟩
  cases r with
  | status => exact absurd rfl hr
  | _ => rfl

/-- The registers that the host writes only while no command runs (R88). -/
def idleRegs (b : Byte) : List Reg := [.srcAddr, .srcLen, .dstAddr, .dstCap, .origLen, .freq b]

theorem hostWrite_idleReg_busy {s : State} {r : Reg} {b : Byte} (hr : r ∈ idleRegs b) (hb : s.status.busy = true)
    (v : Word) : s.hostWrite (some r) v = s := by
  simp only [idleRegs, List.mem_cons, List.not_mem_nil, or_false] at hr
  rcases hr with rfl | rfl | rfl | rfl | rfl | rfl <;> exact if_pos hb

theorem hostWrite_idleReg_idle {s : State} {r : Reg} {b : Byte} (hr : r ∈ idleRegs b) (hb : s.status.busy = false)
    (v : Word) : regValue (s.hostWrite (some r) v) r = v ∧
      ∀ r', r' ≠ r → regValue (s.hostWrite (some r) v) r' = regValue s r' := by
  have hidle : ¬ s.status.busy = true := by simp [hb]
  simp only [idleRegs, List.mem_cons, List.not_mem_nil, or_false] at hr
  rcases hr with rfl | rfl | rfl | rfl | rfl | rfl <;> rw [State.hostWrite, State.writeReg, if_neg hidle]
  · exact ⟨rfl, fun r' hr' => by cases r' with | srcAddr => exact absurd rfl hr' | _ => rfl⟩
  · exact ⟨rfl, fun r' hr' => by cases r' with | srcLen => exact absurd rfl hr' | _ => rfl⟩
  · exact ⟨rfl, fun r' hr' => by cases r' with | dstAddr => exact absurd rfl hr' | _ => rfl⟩
  · exact ⟨rfl, fun r' hr' => by cases r' with | dstCap => exact absurd rfl hr' | _ => rfl⟩
  · exact ⟨rfl, fun r' hr' => by cases r' with | origLen => exact absurd rfl hr' | _ => rfl⟩
  · refine ⟨atByte_setByte_self _ _ _, fun r' hr' => ?_⟩
    cases r' with
    | freq b' => exact atByte_setByte_ne _ _ fun h => hr' (by rw [h])
    | _ => rfl

/-- The read-only registers of the map (R53). -/
theorem hostWrite_readOnly {s : State} {r : Reg} {b : Byte} {i : Fin 511} {k : Fin 8}
    (hr : r ∈ [Reg.id, .resultLen, .leafCount, .nodeCount, .root, .codeWidth, .maxCode, .dictSize, .codeCount,
      .codeLen b, .codeBits b k, .nodePrio i, .nodeLink i]) (v : Word) : s.hostWrite (some r) v = s := by
  simp only [List.mem_cons, List.not_mem_nil, or_false] at hr
  rcases hr with rfl | rfl | rfl | rfl | rfl | rfl | rfl | rfl | rfl | rfl | rfl | rfl | rfl <;> rfl

/-- Settles O12: one lemma per kind of register. -/
theorem hostWritesFollowBusyRule : Obligations.HostWritesFollowBusyRule := by
  unfold Obligations.HostWritesFollowBusyRule
  refine fun s v b i k r => ⟨fun hr => ?_, fun hr => hostWrite_readOnly hr v, rfl, fun hb => if_pos hb,
    ctrl_ofWord_word v, fun r' hr' => ?_, rfl⟩
  · exact ⟨fun hb => hostWrite_idleReg_busy (b := b) hr hb v, fun hb => hostWrite_idleReg_idle (b := b) hr hb v⟩
  · cases r' with
    | ctrl => exact absurd rfl hr'
    | _ => rfl

/-! ### Host reads (R89) -/

theorem hostRead_rdata (r : Reg) (s : State) : (s.hostRead (some r)).rdata = readValue s r := rfl

theorem readValue_idle {s : State} (hb : s.status.busy = false) (r : Reg) : readValue s r = regValue s r :=
  if_neg (by simp [hb])

theorem readValue_busy {s : State} (hb : s.status.busy = true) (r : Reg) :
    readValue s r = (regValue s r &&& ~~~(openMask r)) ||| (Config.freeValue s.draw 0 32 &&& openMask r) := if_pos hb

/-- A register with no open bit reads its value. -/
theorem readValue_closed {s : State} {r : Reg} (hb : s.status.busy = true) (hm : openMask r = 0#32) :
    readValue s r = regValue s r := by
  rw [readValue_busy hb, hm, BitVec.not_zero, BitVec.and_allOnes, BitVec.and_zero, BitVec.or_zero]

/-- A register all of whose fields are open reads free bits there and 0 in the reserved bits. -/
theorem readValue_open {s : State} {r : Reg} (hb : s.status.busy = true) (hv : regValue s r &&& ~~~(openMask r) = 0#32) :
    readValue s r = Config.freeValue s.draw 0 32 &&& openMask r := by
  rw [readValue_busy hb, hv, BitVec.zero_or]

/-- A field of `w` low bits leaves the bits above it 0. -/
theorem setWidth_and_not_mask {w : Nat} (x : BitVec w) {m : Word} (hm : ∀ n < w, m.getLsbD n = true) :
    BitVec.setWidth 32 x &&& ~~~m = 0#32 := by
  refine BitVec.eq_of_getLsbD_eq fun n hn => ?_
  by_cases hw : n < w
  · simp [hm n hw]
  · simp [BitVec.getLsbD_of_ge x n (Nat.not_lt.mp hw)]

/-- R80: the bits `[30:26]` of NODE_LINK are 0. -/
theorem linkWord_and_not_mask (n : Node) : linkWord n &&& ~~~0x83FFFFFF#32 = 0#32 := by
  refine BitVec.eq_of_getLsbD_eq fun k hk => ?_
  have hmask : ∀ j : Fin 32, (~~~0x83FFFFFF#32).getLsbD j = decide (26 ≤ j.val ∧ j.val < 31) := by decide
  rw [BitVec.getLsbD_and, hmask ⟨k, hk⟩, BitVec.getLsbD_zero]
  by_cases hres : 26 ≤ k ∧ k < 31
  · have hleft := BitVec.getLsbD_of_ge n.left k (by omega)
    have hright := BitVec.getLsbD_of_ge n.right (k - 9) (by omega)
    have hvalue := BitVec.getLsbD_of_ge n.value (k - 18) (by omega)
    simp [linkWord, bitAt_getLsbD, hleft, hright, hvalue, show k ≠ 31 by omega]
  · simp [hres]

/-- The registers that stay readable while a command runs (R89). -/
theorem readValue_argument {s : State} {r : Reg} (hb : s.status.busy = true)
    (hr : r ∈ [Reg.id, .ctrl, .cmd, .srcAddr, .srcLen, .dstAddr, .dstCap]) : readValue s r = regValue s r := by
  refine readValue_closed hb ?_
  simp only [List.mem_cons, List.not_mem_nil, or_false] at hr
  rcases hr with rfl | rfl | rfl | rfl | rfl | rfl | rfl <;> rfl

/-- The registers whose 32 bits are all open while a command runs (R89). -/
theorem readValue_result {s : State} {r : Reg} {b : Byte} {i : Fin 511} {k : Fin 8} (hb : s.status.busy = true)
    (hr : r ∈ [Reg.resultLen, .origLen, .maxCode, .dictSize, .codeCount, .freq b, .codeBits b k, .nodePrio i]) :
    readValue s r = Config.freeValue s.draw 0 32 := by
  have hmask : openMask r = BitVec.allOnes 32 := by
    simp only [List.mem_cons, List.not_mem_nil, or_false] at hr
    rcases hr with rfl | rfl | rfl | rfl | rfl | rfl | rfl | rfl <;> rfl
  rw [readValue_busy hb, hmask, BitVec.not_allOnes, BitVec.and_zero, BitVec.zero_or, BitVec.and_allOnes]

/-- R56, R89: beside the open fields STATUS has BUSY, DONE, ERR and DROPPED, and bits that read 0. -/
theorem status_word_and_not_open (t : Status) : t.word &&& ~~~(openMask .status) = t.word &&& 0x0000000F#32 := by
  refine BitVec.eq_of_getLsbD_eq fun n hn => ?_
  have hmask : ∀ j : Fin 32, (~~~(openMask .status)).getLsbD j =
      !decide (j.val = 4 ∨ j.val = 5 ∨ 8 ≤ j.val ∧ j.val < 12) := by decide
  have hkept : ∀ j : Fin 32, (0x0000000F#32).getLsbD j = decide (j.val < 4) := by decide
  rw [BitVec.getLsbD_and, BitVec.getLsbD_and, hmask ⟨n, hn⟩, hkept ⟨n, hn⟩, status_word_getLsbD _ hn]
  by_cases hlow : n < 4
  · simp [hlow, show ¬ 8 ≤ n by omega, show n ≠ 4 by omega, show n ≠ 5 by omega]
  by_cases hopen : n = 4 ∨ n = 5 ∨ 8 ≤ n ∧ n < 12
  · simp [hlow, hopen]
  · obtain ⟨h0, h1, h2, h3, h4, h5⟩ : n ≠ 0 ∧ n ≠ 1 ∧ n ≠ 2 ∧ n ≠ 3 ∧ n ≠ 4 ∧ n ≠ 5 := by omega
    have hecode : (decide (8 ≤ n) && t.ecode.getLsbD (n - 8)) = false := by
      by_cases h8 : 8 ≤ n
      · simp [BitVec.getLsbD_of_ge t.ecode (n - 8) (by omega)]
      · simp [h8]
    simp [h0, h1, h2, h3, h4, h5, hecode]

/-- Settles O16: the registers by which of their bits are open (`openMask`). -/
theorem hostReadsWhileBusy : Obligations.HostReadsWhileBusy := by
  unfold Obligations.HostReadsWhileBusy
  refine fun s => ⟨fun hb r => ⟨readValue_idle hb r, by simp [State.hostRead, hb]⟩, fun hb b i k r => ?_⟩
  have hfield : ∀ n, n < 9 → (0x000001FF#32).getLsbD n = true := by decide
  have hlen : ∀ n, n < 8 → (0x000000FF#32).getLsbD n = true := by decide
  refine ⟨by simp [State.hostRead, hb], fun hr => readValue_argument hb hr, ?_,
    fun hr => readValue_result (b := b) (i := i) (k := k) hb hr, fun hr => ?_, readValue_open hb ?_,
    readValue_open hb ?_, readValue_open hb ?_, readValue_open hb ?_⟩
  · rw [hostRead_rdata, readValue_busy hb, regValue, status_word_and_not_open]
    rfl
  · simp only [List.mem_cons, List.not_mem_nil, or_false] at hr
    rcases hr with rfl | rfl <;> exact readValue_open hb (setWidth_and_not_mask _ hfield)
  · exact setWidth_and_not_mask _ (by decide)
  · exact setWidth_and_not_mask _ (by decide)
  · exact setWidth_and_not_mask _ hlen
  · exact linkWord_and_not_mask _

/-! ### Accesses of the block (R90) -/

theorem mmioBase_aligned {p : Platform} (h : p.wf = true) : p.mmioBase % 4 = 0 := by
  simp only [Platform.wf, Bool.and_eq_true, decide_eq_true_eq] at h
  exact h.1.2

/-- An aligned 32-bit access of the block goes to the register at its offset. -/
theorem route_aligned {p : Platform} {a : Nat} (hwf : p.wf = true) (hlo : p.mmioBase ≤ a)
    (hhi : a < p.mmioBase + 0x4000) (ha : a % 4 = 0) : route p a 32 = .ok (regAt (a - p.mmioBase)) := by
  have hbase := mmioBase_aligned hwf
  rw [route, if_neg (by unfold Config.blockSize; omega), if_neg (by omega)]

/-- Every other access of the block is refused. -/
theorem route_refused {p : Platform} {a w : Nat} (hwf : p.wf = true) (hlo : p.mmioBase ≤ a)
    (hhi : a < p.mmioBase + 0x4000) (ha : w ≠ 32 ∨ a % 4 ≠ 0) : route p a w = .error (.registerAccess a w) := by
  have hbase := mmioBase_aligned hwf
  rw [route, if_neg (by unfold Config.blockSize; omega), if_pos (by omega)]

/-- The three accesses at a register or a reserved offset. -/
theorem hostStep_of_route {s : State} {a w : Nat} {r : Option Reg} (h : route s.plat a w = .ok r) (v : Word) :
    hostStep (.busWrite a w v) s = .next (s.hostWrite r v) ∧ hostStep (.busRead a w) s = .next (s.hostRead r) ∧
      hostStep (.busReadIs a w v) s = .next ((s.hostRead r).claim v) := by
  simp [hostStep, h]

theorem hostStep_of_refused {s : State} {a w : Nat} {x : Refusal} (h : route s.plat a w = .error x) (v : Word) :
    hostStep (.busWrite a w v) s = .refused x ∧ hostStep (.busRead a w) s = .refused x ∧
      hostStep (.busReadIs a w v) s = .refused x := by
  simp [hostStep, h]

/-- Settles O15: the three accesses by where `route` sends them. -/
theorem registerAccessWidthRule : Obligations.RegisterAccessWidthRule := by
  unfold Obligations.RegisterAccessWidthRule
  intro s a w v hwf hlo hhi
  refine ⟨fun ha => hostStep_of_refused (route_refused hwf hlo hhi ha) v, fun ⟨hw, ha⟩ => ?_⟩
  subst hw
  have hroute := hostStep_of_route (route_aligned hwf hlo hhi ha) v
  refine ⟨fun r hr => ?_, fun hr => ?_⟩
  · rw [hr] at hroute
    exact hroute
  · rw [hr] at hroute
    obtain ⟨hwrite, hread, his⟩ := hroute
    refine ⟨hwrite, hread, his.trans ?_⟩
    rw [decide_eq_decide.mpr (eq_comm (a := v))]
    rfl

end Sys2Proof.Machine
end

section
/-! PROOF. When the NODE window holds a valid tree (R81): a tree of distinct leaf values stands at ROOT, and its nodes are
the first ones of the window. -/

namespace Sys2Proof.Machine

/-- The tree `t` stands at index `i` of a NODE window, over the nodes `is` in preorder. -/
inductive Stands (ns : Nodes) : Nat → Tree → List Nat → Prop where
  | leaf {i : Nat} (h : (nodeAt ns i).leaf = true) : Stands ns i (.leaf (nodeAt ns i).value) [i]
  | node {i : Nat} {l r : Tree} {is js : List Nat} (h : (nodeAt ns i).leaf = false)
      (hl : Stands ns (nodeAt ns i).left.toNat l is) (hr : Stands ns (nodeAt ns i).right.toNat r js) :
      Stands ns i (.node l r) (i :: (is ++ js))

namespace Stands

variable {ns : Nodes} {i : Nat} {t : Tree} {is : List Nat}

theorem root_mem (h : Stands ns i t is) : i ∈ is := by
  cases h <;> simp

/-- A full binary tree has one node fewer than twice its leaves. -/
theorem length_eq (h : Stands ns i t is) : is.length + 1 = 2 * t.leaves.length := by
  induction h with
  | leaf h => rfl
  | node h hl hr ihl ihr =>
    simp only [Tree.leaves, List.length_cons, List.length_append]
    omega

/-- As much fuel as the tree has nodes finds it, and its nodes. -/
theorem found (h : Stands ns i t is) {f : Nat} (hf : is.length ≤ f) :
    subtree f ns i = some t ∧ reach f ns i = some is := by
  induction h generalizing f with
  | leaf h =>
    obtain ⟨f, rfl⟩ := Nat.exists_eq_add_of_lt hf
    simp [subtree, reach, h]
  | node h hl hr ihl ihr =>
    simp only [List.length_cons, List.length_append] at hf
    cases f with
    | zero => omega
    | succ f =>
      obtain ⟨hsl, hrl⟩ := ihl (f := f) (by omega)
      obtain ⟨hsr, hrr⟩ := ihr (f := f) (by omega)
      simp [subtree, reach, h, hsl, hrl, hsr, hrr]

/-- One tree stands at an index. -/
theorem unique {u : Tree} {js : List Nat} (h : Stands ns i t is) (h' : Stands ns i u js) : t = u ∧ is = js := by
  obtain ⟨ht, his⟩ := h.found (Nat.le_max_left is.length js.length)
  obtain ⟨hu, hjs⟩ := h'.found (Nat.le_max_right is.length js.length)
  exact ⟨Option.some.inj (ht.symm.trans hu), Option.some.inj (his.symm.trans hjs)⟩

/-- A part of the tree stands at each of its nodes. -/
theorem of_mem (h : Stands ns i t is) {j : Nat} (hj : j ∈ is) :
    ∃ u js, Stands ns j u js ∧ js.length ≤ is.length ∧ u.leaves ⊆ t.leaves := by
  induction h with
  | leaf h =>
    obtain rfl := List.mem_singleton.mp hj
    exact ⟨_, _, .leaf h, Nat.le_refl _, fun _ hv => hv⟩
  | node h hl hr ihl ihr =>
    rcases List.mem_cons.mp hj with rfl | hj
    · exact ⟨_, _, .node h hl hr, Nat.le_refl _, fun _ hv => hv⟩
    · simp only [List.length_cons, List.length_append, Tree.leaves]
      rcases List.mem_append.mp hj with hj | hj
      · obtain ⟨u, us, hu, hlen, hsub⟩ := ihl hj
        exact ⟨u, us, hu, by omega, List.subset_append_of_subset_left _ hsub⟩
      · obtain ⟨u, us, hu, hlen, hsub⟩ := ihr hj
        exact ⟨u, us, hu, by omega, List.subset_append_of_subset_right _ hsub⟩

/-- With distinct leaf values no node is reached twice: below a shared node there would be a shared value. -/
theorem nodup (h : Stands ns i t is) (hleaves : t.leaves.Nodup) : is.Nodup := by
  induction h with
  | leaf h => simp
  | @node i l r is js h hl hr ihl ihr =>
    obtain ⟨hnl, hnr, hdisj⟩ := List.nodup_append'.mp hleaves
    have hroot : i ∉ is ++ js := by
      intro hi
      have hself := Stands.node h hl hr
      rcases List.mem_append.mp hi with hi | hi
      · obtain ⟨u, us, hu, hlen, -⟩ := hl.of_mem hi
        obtain ⟨-, rfl⟩ := hself.unique hu
        simp only [List.length_cons, List.length_append] at hlen
        omega
      · obtain ⟨u, us, hu, hlen, -⟩ := hr.of_mem hi
        obtain ⟨-, rfl⟩ := hself.unique hu
        simp only [List.length_cons, List.length_append] at hlen
        omega
    refine List.nodup_cons.mpr ⟨hroot, List.nodup_append'.mpr ⟨ihl hnl, ihr hnr, fun j hjl hjr => ?_⟩⟩
    obtain ⟨u, us, hu, -, hul⟩ := hl.of_mem hjl
    obtain ⟨u', us', hu', -, hur⟩ := hr.of_mem hjr
    obtain ⟨rfl, -⟩ := hu.unique hu'
    obtain ⟨v, hv⟩ := List.exists_mem_of_length_pos (leaves_length_pos u)
    exact hdisj (hul hv) (hur hv)

/-- A tree stays where it stands in every window that agrees on its nodes. -/
theorem of_agree {ns' : Nodes} (h : Stands ns i t is) (hag : ∀ j ∈ is, nodeAt ns' j = nodeAt ns j) :
    Stands ns' i t is := by
  induction h with
  | leaf h =>
    rw [← hag _ (List.mem_singleton_self _)] at h ⊢
    exact .leaf h
  | node h hl hr ihl ihr =>
    have hi := hag _ (List.mem_cons_self ..)
    refine .node (by rw [hi, h]) ?_ ?_
    · rw [hi]
      exact ihl fun j hj => hag j (by simp [hj])
    · rw [hi]
      exact ihr fun j hj => hag j (by simp [hj])

/-- R81 holds of a tree of distinct leaf values over the first nodes of the window. -/
theorem treeValid {l : Nat} (h : Stands ns i t is) (hleaves : t.leaves.Nodup) (hl : t.leaves.length = l)
    (hmax : l ≤ 256) (hbelow : ∀ j ∈ is, j < 2 * l - 1) : treeValid ns i l (2 * l - 1) = true := by
  have hlen := h.length_eq
  have hpos := leaves_length_pos t
  obtain ⟨hsub, hreach⟩ := h.found (f := Config.maxNodes) (by unfold Config.maxNodes; omega)
  simp only [Machine.treeValid, hsub, hreach, Bool.and_eq_true, decide_eq_true_eq, List.all_eq_true]
  exact ⟨⟨⟨⟨⟨by omega, hmax⟩, trivial⟩, hbelow i h.root_mem⟩, ⟨by omega, hbelow⟩, h.nodup hleaves⟩, hl, hleaves⟩

end Stands

theorem treeValid_bounds {ns : Nodes} {root l n : Nat} (h : treeValid ns root l n = true) :
    l ≤ 256 ∧ n = 2 * l - 1 ∧ root < n := by
  simp only [treeValid, Bool.and_eq_true, decide_eq_true_eq] at h
  obtain ⟨⟨⟨⟨⟨-, hl⟩, hn⟩, hroot⟩, -⟩, -⟩ := h
  exact ⟨hl, hn, hroot⟩

/-- The registers of a finished tree (R402, R612) hold its numbers. -/
theorem setTree_treeOk {ns : Nodes} {root l : Nat} (h : treeValid ns root l (2 * l - 1) = true) (s : State) :
    (s.setTree ns root l).treeOk = true := by
  obtain ⟨hl, -, hroot⟩ := treeValid_bounds h
  simp only [State.treeOk, State.setTree, BitVec.toNat_ofNat]
  rwa [Nat.mod_eq_of_lt (by omega), Nat.mod_eq_of_lt (by omega), Nat.mod_eq_of_lt (by omega)]

theorem tree_isSome {s : State} (h : s.treeOk = true) : ∃ t, s.tree = some t := by
  cases ht : s.tree with
  | some t => exact ⟨t, rfl⟩
  | none =>
    unfold State.tree at ht
    simp [State.treeOk, treeValid, ht] at h

/-! ### The tree that R402 builds -/

theorem stands_of_linksBelow {ns : Nodes} {n : Nat} (h : LinksBelow ns n) (i : Nat) (hi : i < n) :
    ∃ t is, Stands ns i t is ∧ ∀ j ∈ is, j < n := by
  induction i using Nat.strong_induction_on with
  | _ i ih =>
    by_cases hleaf : (nodeAt ns i).leaf = true
    · exact ⟨_, _, .leaf hleaf, by simpa using hi⟩
    · obtain ⟨hl, hr⟩ := (h i hi).resolve_left hleaf
      obtain ⟨l, is, hsl, hbl⟩ := ih _ hl (by omega)
      obtain ⟨r, js, hsr, hbr⟩ := ih _ hr (by omega)
      refine ⟨_, _, .node (by simpa using hleaf) hsl hsr, fun j hj => ?_⟩
      rcases List.mem_cons.mp hj with rfl | hj
      · exact hi
      · exact (List.mem_append.mp hj).elim (hbl j) (hbr j)

/-- R402's loop, once for every invariant: what each merge keeps holds of the window when one node is left in the
queue. -/
theorem mergeLoop_invariant {P : Nodes → Nat → List Nat → Prop}
    (hstep : ∀ ns next q a b q2, P ns next q → q.Perm (a :: b :: q2) →
      P (setNode ns next (mergedNode ns a b)) (next + 1) (next :: q2))
    (f : Nat) {ns : Nodes} {next : Nat} {q : List Nat} (h : P ns next q) (hq : q ≠ []) (hf : q.length ≤ f) :
    ∃ ns' next' root, mergeLoop f ns q next = (ns', [root]) ∧ P ns' next' [root] := by
  induction f generalizing ns next q with
  | zero => exact absurd (List.eq_nil_of_length_eq_zero (by omega)) hq
  | succ f ih =>
    obtain ⟨a, q1, ha⟩ := takeMin_isSome (ns := ns) hq
    have hpa := takeMin_perm ha
    by_cases hq1 : q1 = []
    · subst hq1
      obtain rfl : q = [a] := List.perm_singleton.mp hpa
      exact ⟨ns, next, a, by rw [mergeLoop, ha]; rfl, h⟩
    · obtain ⟨b, q2, hb⟩ := takeMin_isSome (ns := ns) hq1
      have hperm : q.Perm (a :: b :: q2) := hpa.trans ((takeMin_perm hb).cons a)
      have hlen := hperm.length_eq
      simp only [List.length_cons] at hlen
      obtain ⟨ns', next', root, hrun, hend⟩ :=
        ih (hstep ns next q a b q2 h hperm) (by simp) (by simp only [List.length_cons]; omega)
      exact ⟨ns', next', root, by simpa [mergeLoop, ha, hb] using hrun, hend⟩

/-- R402, R404: the links of the built window point down, and its root is among the first `2 * L - 1` nodes. -/
theorem buildTree_links {f : Vector Word 256} (h : symsOf f ≠ []) :
    LinksBelow (buildTree f).1 (2 * (symsOf f).length - 1) ∧ (buildTree f).2 < 2 * (symsOf f).length - 1 := by
  obtain ⟨hm, -⟩ := placeLeaves_merging f (symsOf f) (symsOf_length_le f)
  obtain ⟨ns, next, root, hrun, hend, hcount⟩ := mergeLoop_invariant
    (P := fun ns next q => Merging ns next q ∧ next + q.length = 2 * (symsOf f).length)
    (fun ns next q a b q2 hP hperm => by
      have hlen := hperm.length_eq
      simp only [List.length_cons] at hlen ⊢
      exact ⟨(merge_step hP.1 hperm).1, by omega⟩)
    (symsOf f).length ⟨hm, by simp; omega⟩ (by simpa using h) (by simp)
  have hb : buildTree f = (ns, root) := by simp [buildTree, hrun]
  obtain rfl : next = 2 * (symsOf f).length - 1 := by
    simp only [List.length_singleton] at hcount
    omega
  rw [hb]
  exact ⟨hend.links, hend.queued root (by simp)⟩

theorem symsOf_nodup (f : Vector Word 256) : (symsOf f).Nodup := allBytes_nodup.filter _

/-- R402 builds a valid tree. -/
theorem buildTree_valid {f : Vector Word 256} (h : symsOf f ≠ []) :
    treeValid (buildTree f).1 (buildTree f).2 (symsOf f).length (2 * (symsOf f).length - 1) = true := by
  obtain ⟨hlinks, hroot⟩ := buildTree_links h
  obtain ⟨t, is, hs, hbelow⟩ := stands_of_linksBelow hlinks _ hroot
  obtain ⟨-, u, hu, hperm⟩ := buildTree_leaves h
  have hmax := symsOf_length_le f
  obtain rfl : u = t := by
    obtain ⟨v, hv⟩ := subtree_of_linksBelow hlinks _ hroot
    rw [hv _ (by unfold Config.maxNodes; omega)] at hu
    have hfound := (hs.found (Nat.le_max_left is.length ((buildTree f).2 + 1))).1
    rw [hv _ (by omega)] at hfound
    exact (Option.some.inj hu).symm.trans (Option.some.inj hfound)
  exact hs.treeValid (hperm.nodup_iff.mpr (symsOf_nodup f)) hperm.length_eq hmax hbelow

/-! ### The tree that R610 parses -/

/-- A parse that went on from `p` to `q` has read the subtree `t` at the first node it created, over the nodes `is`: it
used 10 bits less one for each leaf, and saw the leaves' values for the first time. -/
structure Parsed (p q : Parse) (t : Tree) (is : List Nat) : Prop where
  stands : Stands q.nodes p.cnt t is
  count : q.cnt = p.cnt + is.length
  fresh : ∀ j ∈ is, p.cnt ≤ j ∧ j < q.cnt
  seen : q.seen.Perm (t.leaves ++ p.seen)
  nodup : p.seen.Nodup → q.seen.Nodup
  bits : p.rest.length + 1 = q.rest.length + 10 * t.leaves.length

/-- The parse with an internal node created and its bit read. -/
def Parse.withNode (p : Parse) (rest : Bits) : Parse :=
  { p with rest := rest, nodes := setNode p.nodes p.cnt Node.zero, cnt := p.cnt + 1 }

/-- The parse with node `i` linked to `a` and `b`. -/
def Parse.linked (p : Parse) (i a b : Nat) : Parse :=
  { p with
    nodes := setNode p.nodes i { nodeAt p.nodes i with left := BitVec.ofNat 9 a, right := BitVec.ofNat 9 b } }

theorem Parse.linked_ne (p : Parse) {i j : Nat} (a b : Nat) (h : j ≠ i) :
    nodeAt (p.linked i a b).nodes j = nodeAt p.nodes j := nodeAt_setNode_ne _ _ h

theorem Parse.linked_self (p : Parse) {i a b : Nat} (hi : i < 511) (ha : a < 512) (hb : b < 512) :
    (nodeAt (p.linked i a b).nodes i).leaf = (nodeAt p.nodes i).leaf ∧
      (nodeAt (p.linked i a b).nodes i).left.toNat = a ∧ (nodeAt (p.linked i a b).nodes i).right.toNat = b := by
  rw [Parse.linked, nodeAt_setNode_self _ _ hi]
  exact ⟨rfl, Nat.mod_eq_of_lt ha, Nat.mod_eq_of_lt hb⟩

/-- R610 at an internal node: the two subtrees parsed one after the other, from `p` with the node created, and the node
linked to them at the end. -/
theorem Parsed.node {p p1 p2 : Parse} {s : Bits} {tl tr : Tree} {is js : List Nat} (hs : p.rest = false :: s)
    (h1 : Parsed (p.withNode s) p1 tl is) (h2 : Parsed p1 p2 tr js) (he1 : (p.withNode s).Extends p1)
    (he2 : p1.Extends p2) (hcnt : p2.cnt ≤ 511) :
    Parsed p (p2.linked p.cnt (p.cnt + 1) p1.cnt) (.node tl tr) (p.cnt :: (is ++ js)) := by
  have hcount1 : p1.cnt = p.cnt + 1 + is.length := h1.count
  have hcount2 := h2.count
  have hfresh1 : ∀ j ∈ is, p.cnt + 1 ≤ j ∧ j < p1.cnt := h1.fresh
  have hfresh2 := h2.fresh
  have hbits1 : s.length + 1 = p1.rest.length + 10 * tl.leaves.length := h1.bits
  have hbits2 := h2.bits
  have hpos := List.length_pos_of_mem h2.stands.root_mem
  obtain ⟨hleaf, hleft, hright⟩ :=
    p2.linked_self (i := p.cnt) (a := p.cnt + 1) (b := p1.cnt) (by omega) (by omega) (by omega)
  have hroot : nodeAt p2.nodes p.cnt = Node.zero :=
    ((he1.trans he2).2 p.cnt (Nat.lt_succ_self _)).trans (nodeAt_setNode_self _ _ (by omega))
  refine ⟨.node (by rw [hleaf, hroot]; rfl) ?_ ?_, ?_, ?_, ?_, fun hn => h2.nodup (h1.nodup hn), ?_⟩
  · rw [hleft]
    refine h1.stands.of_agree fun j hj => ?_
    have := hfresh1 j hj
    rw [p2.linked_ne _ _ (by omega), he2.2 j (by omega)]
  · rw [hright]
    refine h2.stands.of_agree fun j hj => p2.linked_ne _ _ ?_
    have := hfresh2 j hj
    omega
  · simp only [Parse.linked, List.length_cons, List.length_append]
    omega
  · simp only [Parse.linked, List.forall_mem_cons, List.forall_mem_append]
    refine ⟨by omega, fun j hj => ?_, fun j hj => ?_⟩
    · have := hfresh1 j hj
      omega
    · have := hfresh2 j hj
      omega
  · have hswap := List.perm_append_comm_assoc tr.leaves tl.leaves p.seen
    simpa [Tree.leaves, Parse.linked] using (h2.seen.trans (h1.seen.append_left _)).trans hswap
  · simp only [hs, Parse.linked, List.length_cons, Tree.leaves, List.length_append]
    omega

/-- The parse with a leaf of the value `v` created and its bits read. -/
def Parse.withLeaf (p : Parse) (v : Byte) (rest : Bits) : Parse :=
  { nodes := setNode p.nodes p.cnt { prio := 0#32, leaf := true, value := v, left := 0#9, right := 0#9 }
    rest := rest
    cnt := p.cnt + 1
    seen := v :: p.seen }

/-- R610 at a leaf. -/
theorem Parsed.leaf {p : Parse} {v : Byte} {rest : Bits} (hcnt : p.cnt < 511) (hnew : v ∉ p.seen)
    (hbits : p.rest.length = rest.length + 9) : Parsed p (p.withLeaf v rest) (.leaf v) [p.cnt] := by
  have hnode : nodeAt (p.withLeaf v rest).nodes p.cnt = _ := nodeAt_setNode_self p.nodes _ hcnt
  have hstands := Stands.leaf (congrArg Node.leaf hnode)
  rw [hnode] at hstands
  exact ⟨hstands, rfl, by simp [Parse.withLeaf], .refl _, fun hn => List.nodup_cons.mpr ⟨hnew, hn⟩,
    congrArg Nat.succ hbits⟩

/-- What R610's `parse()` has done when it answers a node. -/
theorem parseTree_parsed {l : Nat} (hl : l ≤ 256) (f : Nat) {p q : Parse} {r : Nat} (hp : p.cnt ≤ 2 * l - 1)
    (h : parseTree l f p = (q, some r)) : r = p.cnt ∧ q.cnt ≤ 2 * l - 1 ∧ ∃ t is, Parsed p q t is := by
  induction f generalizing p q r with
  | zero => cases h
  | succ f ih =>
    rw [parseTree] at h
    split at h
    · cases h
    next hcnt =>
    dsimp only at h
    split at h
    · cases h
    · next s hs =>
      split at h
      · cases h
      next hbits =>
      split at h
      · cases h
      next hnew =>
      cases h
      refine ⟨rfl, by dsimp only; omega, _, _, Parsed.leaf (by omega) hnew ?_⟩
      rw [hs, List.length_cons, List.length_drop]
      omega
    · next s hs =>
      split at h
      · cases h
      next p1 a hp1 =>
      split at h
      · cases h
      next p2 b hp2 =>
      cases h
      obtain ⟨rfl, hc1, tl, is, h1⟩ := ih (by dsimp only; omega) hp1
      obtain ⟨rfl, hc2, tr, js, h2⟩ := ih hc1 hp2
      have he1 := parseTree_extends l f (p.withNode s)
      have he2 := parseTree_extends l f p1
      rw [Parse.withNode, hp1] at he1
      rw [hp2] at he2
      exact ⟨rfl, hc2, _, _, h1.node hs h2 he1 he2 (by omega)⟩

/-- R612's accepted parse leaves a valid tree at index 0: all bits are used, so it has as many leaves as the
serialization counts. -/
theorem parseTree_valid {l : Nat} (hl1 : 1 ≤ l) (hl : l ≤ 256) {rest : Bits} {q : Parse} {r : Nat}
    (hlen : rest.length = 10 * l - 1)
    (h : parseTree l (2 * l) { nodes := zeroNodes, rest := rest, cnt := 0, seen := [] } = (q, some r))
    (hend : q.rest = []) : treeValid q.nodes r l (2 * l - 1) = true := by
  obtain ⟨rfl, hcnt, t, is, hq⟩ := parseTree_parsed hl _ (Nat.zero_le _) h
  have hbits := hq.bits
  simp only [hlen, hend, List.length_nil] at hbits
  have hleaves : t.leaves.Nodup := by
    have hseen := hq.seen
    rw [List.append_nil] at hseen
    exact hseen.nodup_iff.mp (hq.nodup List.nodup_nil)
  refine hq.stands.treeValid hleaves (by omega) hl fun j hj => ?_
  exact (hq.fresh j hj).2.trans_le hcnt

/-- R612 up to `STATUS.TREE_VALID <- 1` ends without error over a valid tree only. -/
theorem deserializeBody_valid {a n : Nat} {s v : State} (h : deserializeBody a n s = .done v) :
    ∃ ns l, v = s.setTree ns 0 l ∧ treeValid ns 0 l (2 * l - 1) = true := by
  rcases deserializeBody_cases a n s with ⟨x, -, hr⟩ | hr | ⟨l, -, -, hl1, hl256, -, -, hp⟩
  · rw [hr] at h
    cases h
  · rw [hr] at h
    cases h
  · rw [hp] at h
    obtain ⟨q, r, rfl, hend, hparse, -⟩ := parseBody_done h
    have hlen : ((bitsOf (s.mem.peek (a + 2) (treeBytes l))).take (10 * l - 1)).length = 10 * l - 1 := by
      have := treeBytes_spec l
      simp only [List.length_take, bitsOf_length, peek_length]
      omega
    have hvalid := parseTree_valid hl1 hl256 hlen hparse hend
    obtain ⟨rfl, -⟩ := parseTree_root_leaf hl1 hlen hparse hend
    exact ⟨q.nodes, l, rfl, hvalid⟩

end Sys2Proof.Machine
end

section
/-! PROOF. What a command's pseudocode does, said once for each of the 13: the registers it leaves alone (R71), the tables
it leaves valid (R81, R82), the memory it changes (R161 to R163), and that it is never stuck over a valid tree. -/

namespace Sys2Proof.Machine

/-! ### The states a part of a command leaves -/

/-- Every state that the part ends in has `P`, by its last line or by a raise; it is stuck only if `c`. -/
inductive Ending.Leaves (c : Prop) (P : State → Prop) : Ending → Prop where
  | done {s : State} (h : P s) : Leaves c P (.done s)
  | raised {e : ErrCode} {n : Nat} {s : State} (h : P s) : Leaves c P (.raised e n s)
  | stuck {f : Fault} (h : c) : Leaves c P (.stuck f)

namespace Ending.Leaves

variable {c : Prop} {P : State → Prop}

theorem ite {d : Prop} [Decidable d] {e1 e2 : Ending} (h1 : d → e1.Leaves c P) (h2 : ¬d → e2.Leaves c P) :
    (if d then e1 else e2).Leaves c P := by
  by_cases hd : d
  · rw [if_pos hd]
    exact h1 hd
  · rw [if_neg hd]
    exact h2 hd

theorem andThen {e : Ending} {k : State → Ending} (he : e.Leaves c P) (hk : ∀ v, e = .done v → (k v).Leaves c P) :
    (e.andThen k).Leaves c P := by
  cases e with
  | done v => exact hk v rfl
  | raised x n s => cases he; next h => exact .raised h
  | stuck f => cases he; next h => exact .stuck h

end Ending.Leaves

/-! ### What a command may change -/

/-- `t` is `s` but for STATUS's lifecycle bits, RESULT_LEN, memory, and the groups of registers in `o`. -/
structure KeepsBut (o : Outputs) (s t : State) : Prop where
  args : KeepsArgs s t
  dropped : t.status.dropped = s.status.dropped
  freq : o.freq = false → KeepsFreq s t
  tree : o.tree = false → KeepsTree s t ∧ t.status.treeValid = s.status.treeValid
  codes : o.codes = false → KeepsCodes s t
  codesValid : o.tree = false → o.codes = false → t.status.codesValid = s.status.codesValid
  orig : o.origLen = false → KeepsOrig s t
  lzw : o.lzw = false → KeepsLzw s t

/-- How a command changes memory (R161, R163): not at all; the bytes it wrote, inside its DST window; or every byte of
that window. -/
inductive MemChange (i : Instr) (s : State) : Memory → Prop where
  | kept : MemChange i s s.mem
  | written (out : List Byte) (hdst : usesDst i = true) (hlen : out.length ≤ s.dstN) :
      MemChange i s (s.mem.poke s.dstA out)
  | scrambled (d : Nat) (hdst : usesDst i = true) :
      MemChange i s (s.mem.scramble d s.dstA (clipLen s.dstA s.dstN))

/-- What the pseudocode of command `i` has done to `s` when it stands in `w`. -/
structure Ran (i : Instr) (s w : State) : Prop where
  keeps : KeepsBut (outputsOf i) s w
  done : w.status.done = s.status.done
  err : w.status.err = s.status.err
  tree : s.TreeInv → w.TreeInv
  codes : s.TreeInv → s.CodesInv → w.CodesInv
  mem : s.TreeInv → MemChange i s w.mem

namespace Ran

variable {i : Instr} {s w : State}

theorem refl (i : Instr) (s : State) : Ran i s s where
  keeps := by constructor <;> simp [KeepsArgs, KeepsFreq, KeepsTree, KeepsCodes, KeepsOrig, KeepsLzw]
  done := rfl
  err := rfl
  tree := id
  codes := fun _ h => h
  mem := fun _ => .kept

theorem setResultLen (h : Ran i s w) (n : Nat) : Ran i s (w.setResultLen n) :=
  ⟨{ h.keeps with }, h.done, h.err, h.tree, h.codes, h.mem⟩

theorem setFreq (h : Ran i s w) (ho : (outputsOf i).freq = true) (f : Vector Word 256) : Ran i s (w.setFreq f) :=
  ⟨{ h.keeps with freq := by simp [ho] }, h.done, h.err, h.tree, h.codes, h.mem⟩

theorem setOrigLen (h : Ran i s w) (ho : (outputsOf i).origLen = true) (n : Nat) : Ran i s (w.setOrigLen n) :=
  ⟨{ h.keeps with orig := by simp [ho] }, h.done, h.err, h.tree, h.codes, h.mem⟩

theorem setLzw (h : Ran i s w) (ho : (outputsOf i).lzw = true) (width mx count size : Nat) :
    Ran i s (w.setLzw width mx count size) :=
  ⟨{ h.keeps with lzw := by simp [ho] }, h.done, h.err, h.tree, h.codes, h.mem⟩

theorem setNodes (h : Ran i s w) (ho : (outputsOf i).tree = true) (ns : Nodes) : Ran i s (w.setNodes ns) :=
  ⟨{ h.keeps with tree := by simp [ho], codesValid := by simp [ho] }, h.done, h.err, (fun _ hv => nomatch hv),
    (fun _ _ hv => nomatch hv), h.mem⟩

theorem setTree (h : Ran i s w) (ho : (outputsOf i).tree = true) {ns : Nodes} {root l : Nat}
    (hvalid : treeValid ns root l (2 * l - 1) = true) : Ran i s (w.setTree ns root l) :=
  ⟨{ h.keeps with tree := by simp [ho], codesValid := by simp [ho] }, h.done, h.err, fun _ _ => setTree_treeOk hvalid w,
    (fun _ _ hv => nomatch hv), h.mem⟩

theorem setCodes (h : Ran i s w) (ho : (outputsOf i).codes = true) {t : Tree} (ht : w.tree = some t)
    (hvalid : w.status.treeValid = true) : Ran i s (w.setCodes t.codeTable.len t.codeTable.bits) :=
  ⟨{ h.keeps with codes := by simp [ho], codesValid := by simp [ho] }, h.done, h.err, h.tree, fun _ _ _ => by
    have ht' : (w.setCodes t.codeTable.len t.codeTable.bits).tree = some t := ht
    exact ⟨hvalid, by simp [State.codesOk, ht']⟩, h.mem⟩

theorem scrambleDst (h : Ran i s w) (hdst : usesDst i = true) (hmem : w.mem = s.mem) : Ran i s w.scrambleDst := by
  obtain ⟨-, -, -, -, -, -, hlatch, -⟩ := h.keeps.args
  refine ⟨{ h.keeps with }, h.done, h.err, h.tree, h.codes, fun _ => ?_⟩
  rw [State.scrambleDst, hmem, hlatch]
  exact .scrambled w.draw hdst

/-- The writes of a command, the last thing it does to memory. -/
theorem writeDst {c : Prop} (h : Ran i s w) (hdst : usesDst i = true) (hmem : w.mem = s.mem) {out : List Byte} (n : Nat)
    (hlen : s.TreeInv → out.length ≤ s.dstN) : (writeDst out n w).Leaves c (Ran i s) := by
  obtain ⟨-, -, -, -, -, -, hlatch, -⟩ := h.keeps.args
  rcases writeDst_cases out n w with ⟨-, hw⟩ | ⟨-, hw⟩
  · rw [hw]
    have hset : Ran i s (w.setMem (w.mem.poke w.dstA out)) := by
      refine ⟨{ h.keeps with }, h.done, h.err, h.tree, h.codes, fun ht => ?_⟩
      rw [hmem, State.dstA, hlatch]
      exact .written out hdst (hlen ht)
    exact .done (hset.setResultLen n)
  · rw [hw]
    exact .raised (h.scrambleDst hdst hmem)

end Ran

/-! ### The shared parts -/

section
variable {c : Prop} {i : Instr} {s w : State}

theorem freqBody_ran (h : Ran i s w) (ho : (outputsOf i).freq = true) : (freqBody w).Leaves c (Ran i s) := by
  rcases freqBody_cases w with ⟨-, hb⟩ | ⟨-, hb⟩ <;> rw [hb]
  · exact .done (h.setFreq ho _)
  · exact .raised (h.setFreq ho _)

theorem deserializeBody_ran (h : Ran i s w) (ho : (outputsOf i).tree = true) (a n : Nat) :
    (deserializeBody a n w).Leaves c (Ran i s) := by
  rcases deserializeBody_cases a n w with ⟨x, -, hb⟩ | hb | ⟨l, -, -, -, -, -, -, hb⟩
  · rw [hb]
    exact .raised h
  · rw [hb]
    exact .raised (h.setNodes ho _)
  · rcases parseBody_cases l (w.mem.peek (a + 2) (treeBytes l)) w with ⟨ns, hp⟩ | ⟨q, r, -, -, -, hp⟩
    · rw [hb, hp]
      exact .raised (h.setNodes ho _)
    · obtain ⟨ns, k, hv, hvalid⟩ := deserializeBody_valid (hb.trans hp)
      rw [hb, hp, hv]
      exact .done (h.setTree ho hvalid)

theorem unpackBody_ran (h : Ran i s w) (hdst : usesDst i = true) (hmem : w.mem = s.mem) (hc : w.tree = none → c)
    (a m : Nat) {n : Nat} (hn : n ≤ s.dstN) : (unpackBody a m n w).Leaves c (Ran i s) := by
  rcases unpackBody_cases a m n w with ⟨hb, hnone⟩ | ⟨x, -, hb | hb⟩ | ⟨t, -, -, hb⟩
  · rw [hb]
    exact .stuck (hc hnone)
  · rw [hb]
    exact .raised h
  · rw [hb]
    exact .raised (h.scrambleDst hdst hmem)
  · rw [hb]
    exact h.writeDst hdst hmem n fun _ => (decodeMany_length_le t n _).trans hn

end

/-! ### The commands -/

/-- The pseudocode of each command. -/
def bodyOf : Instr → State → Ending
  | .nop => nopBody
  | .clear => clearBody
  | .freqCount => freqCountBody
  | .treeBuild => treeBuildBody
  | .codeGen => codeGenBody
  | .treeSerialize => treeSerializeBody
  | .treeDeserialize => treeDeserializeBody
  | .bitPack => bitPackBody
  | .bitUnpack => bitUnpackBody
  | .hufCompress => hufCompressBody
  | .hufDecompress => hufDecompressBody
  | .lzwCompress => lzwCompressBody
  | .lzwDecompress => lzwDecompressBody

theorem exec_eq (i : Instr) (s : State) :
    exec i s = if (usesSrc i || usesDst i) = true then windowed i (bodyOf i) s else (bodyOf i s).finish := by
  cases i <;> rfl

/-- Every way a command answers a next state: disturbed; turned away by a window check; or by its pseudocode. -/
theorem exec_next {i : Instr} {s t : State} (h : exec i s = .next t) :
    (s.disturbed = true ∧ t = s.anyOutputs i) ∨ t = (s.setResultLen 0).complete (s.status.failed .badArgs) ∨
      (windowsOk i s = true ∧ (bodyOf i s).finish = .next t) := by
  rw [exec_eq] at h
  split at h
  · rcases windowed_next h with hd | ⟨-, hw, hb⟩ | ⟨-, -, rfl⟩
    · exact .inl hd
    · exact .inr (.inr ⟨hw, hb⟩)
    · exact .inr (.inl rfl)
  · next hno =>
    rw [Bool.not_eq_true, Bool.or_eq_false_iff] at hno
    exact .inr (.inr ⟨by simp [windowsOk, hno], h⟩)

/-- With TREE_VALID over no tree excluded, a tree is there when TREE_VALID is 1 (R81). -/
theorem not_treeInv_of_stuck {s : State} (hvalid : ¬ s.status.treeValid = false) (hnone : s.tree = none) :
    ¬ s.TreeInv := by
  intro h
  obtain ⟨t, ht⟩ := tree_isSome (h (by simpa using hvalid))
  exact Option.some_ne_none t (ht.symm.trans hnone)

section
variable (s : State)

theorem clearBody_ran : (clearBody s).Leaves (¬ s.TreeInv) (Ran .clear s) := .done
  { keeps := by constructor <;> simp [outputsOf, State.cleared, KeepsArgs]
    done := rfl
    err := rfl
    tree := fun _ hv => nomatch hv
    codes := fun _ _ hv => nomatch hv
    mem := fun _ => .kept }

theorem freqCountBody_ran : (freqCountBody s).Leaves (¬ s.TreeInv) (Ran .freqCount s) := by
  refine .ite (fun _ => .raised (.refl _ s)) fun _ => (freqBody_ran (.refl _ s) rfl).andThen fun v hv => ?_
  rw [freqBody_done hv]
  exact .done (((Ran.refl _ s).setFreq rfl _).setResultLen 0)

theorem treeBuildBody_ran : (treeBuildBody s).Leaves (¬ s.TreeInv) (Ran .treeBuild s) := by
  refine .ite (fun _ => .raised (.refl _ s)) fun hsyms => .ite (fun _ => .raised (.refl _ s)) fun _ => ?_
  have hvalid := buildTree_valid (f := s.freq) fun h => hsyms (List.length_eq_zero_iff.mpr h)
  have hran : Ran .treeBuild s (buildBody s) := (Ran.refl _ s).setTree rfl hvalid
  exact .done (hran.setResultLen 0)

theorem codeGenBody_ran : (codeGenBody s).Leaves (¬ s.TreeInv) (Ran .codeGen s) := by
  refine .ite (fun _ => .raised (.refl _ s)) fun hvalid => ?_
  rcases codesBody_cases s with ⟨hnone, hb⟩ | ⟨t, ht, hb⟩
  · rw [hb]
    exact .stuck (not_treeInv_of_stuck hvalid hnone)
  · rw [hb]
    exact .done (((Ran.refl _ s).setCodes rfl ht (by simpa using hvalid)).setResultLen 0)

theorem treeSerializeBody_ran : (treeSerializeBody s).Leaves (¬ s.TreeInv) (Ran .treeSerialize s) := by
  refine .ite (fun _ => .raised (.refl _ s)) fun hvalid => .ite (fun _ => .raised (.refl _ s)) fun hcap => ?_
  cases ht : s.tree with
  | none => exact .stuck (not_treeInv_of_stuck hvalid ht)
  | some t =>
    refine (Ran.refl _ s).writeDst rfl rfl _ fun hinv => ?_
    rw [ser_length, tree_leaves_length (hinv (by simpa using hvalid)) ht]
    exact Nat.not_lt.mp hcap

theorem treeDeserializeBody_ran : (treeDeserializeBody s).Leaves (¬ s.TreeInv) (Ran .treeDeserialize s) := by
  refine .andThen (deserializeBody_ran (.refl _ s) rfl _ _) fun v hv => ?_
  obtain ⟨ns, l, rfl, hvalid⟩ := deserializeBody_valid hv
  exact .done (((Ran.refl _ s).setTree rfl hvalid).setResultLen _)

theorem bitPackBody_ran : (bitPackBody s).Leaves (¬ s.TreeInv) (Ran .bitPack s) := by
  refine .ite (fun _ => .raised (.refl _ s)) fun _ => .ite (fun _ => .raised (.refl _ s)) fun hn => ?_
  refine .ite (fun _ => .raised (.refl _ s)) fun _ => .ite (fun _ => .raised (.refl _ s)) fun hr => ?_
  refine .ite (fun _ => .raised (.refl _ s)) fun hcap => ?_
  have hread := readable_of_allOk (m := s.mem) (by simpa using hr)
  refine (Ran.refl _ s).writeDst rfl rfl _ fun _ => ?_
  rw [hread] at hcap ⊢
  rw [packCodes_length _ _ (src_ne_nil hn)]
  exact Nat.not_lt.mp hcap

theorem bitUnpackBody_ran : (bitUnpackBody s).Leaves (¬ s.TreeInv) (Ran .bitUnpack s) := by
  refine .ite (fun _ => .raised (.refl _ s)) fun hvalid => .ite (fun _ => .raised (.refl _ s)) fun _ => ?_
  refine .ite (fun _ => .raised (.refl _ s)) fun _ => .ite (fun _ => .raised (.refl _ s)) fun hcap => ?_
  exact unpackBody_ran (.refl _ s) rfl rfl (not_treeInv_of_stuck hvalid) _ _ (Nat.not_lt.mp hcap)

theorem hufWrite_ran {w : State} {t : Tree} (h : Ran .hufCompress s w) (ht : TablesReady w t) (hmem : w.mem = s.mem) :
    (hufWrite w).Leaves (¬ s.TreeInv) (Ran .hufCompress s) := by
  have h1 := h.setOrigLen rfl w.srcN
  obtain ⟨-, -, -, -, -, -, hlatch, -⟩ := h.keeps.args
  have htree : (w.setOrigLen w.srcN).tree = some t := ht.tree
  refine .ite (fun _ => .raised h1) fun _ => .ite (fun _ => .raised h1) fun hcap => ?_
  rw [htree]
  refine h1.writeDst rfl hmem _ fun _ => ?_
  have hlen := hufContainer_length (k := w.srcN) (bits := w.codeBits) ht.leaves ht.weights (src_ne_nil ht.srcNonempty)
  rw [State.dstN, ← hlatch]
  exact hlen.trans_le (Nat.not_lt.mp hcap)

theorem hufCompressBody_ran : (hufCompressBody s).Leaves (¬ s.TreeInv) (Ran .hufCompress s) := by
  refine .ite (fun _ => .raised (.refl _ s)) fun hn => (freqBody_ran (.refl _ s) rfl).andThen fun v hv => ?_
  obtain ⟨t, ht⟩ := stages_ready hn
  have hsyms : symsOf s.countedSrc.freq ≠ [] :=
    symsOf_countBytes_ne_nil (by rw [State.src, peek_length]; exact s.latch.srcLen.isLt) (src_ne_nil hn)
  rw [freqBody_done hv, codesBody_of_tree (s := buildBody s.countedSrc) ht.tree, andThen_done]
  have hran := ((Ran.refl .hufCompress s).setFreq rfl (countBytes zeroFreq s.src)).setTree rfl (buildTree_valid hsyms)
  exact hufWrite_ran s (hran.setCodes rfl ht.tree rfl) ht rfl

theorem hufDecompressBody_ran : (hufDecompressBody s).Leaves (¬ s.TreeInv) (Ran .hufDecompress s) := by
  refine .ite (fun _ => .raised (.refl _ s)) fun _ => ?_
  rcases memRead_cases s.plat s.mem s.srcA 4 with h | h <;> rw [h]
  · exact .raised (.refl _ s)
  have horig := (Ran.refl .hufDecompress s).setOrigLen rfl (beNat (s.mem.peek s.srcA 4))
  refine .ite (fun _ => .raised (.refl _ s)) fun _ => .andThen (deserializeBody_ran horig rfl _ _) fun v hv => ?_
  obtain ⟨ns, l, rfl, hvalid⟩ := deserializeBody_valid hv
  have htree := horig.setTree rfl hvalid
  refine .ite (fun _ => .raised htree) fun _ => .ite (fun _ => .raised htree) fun hcap => ?_
  refine unpackBody_ran htree rfl rfl (fun hnone => ?_) _ _ (Nat.not_lt.mp hcap)
  obtain ⟨t, ht⟩ := tree_isSome (setTree_treeOk hvalid _)
  exact absurd (ht.symm.trans hnone) (Option.some_ne_none t)

theorem lzwCompressBody_ran : (lzwCompressBody s).Leaves (¬ s.TreeInv) (Ran .lzwCompress s) := by
  refine .ite (fun _ => .raised (.refl _ s)) fun _ => ?_
  cases henc : lzwEncode s.plat.lzwDictMax (readable s.plat s.mem s.srcA s.srcN) with
  | none => exact .raised (.refl _ s)
  | some q =>
    obtain ⟨ks, d⟩ := q
    have h1 := fun width mx count size => (Ran.refl .lzwCompress s).setLzw rfl width mx count size
    refine .ite (fun _ => .raised (.refl _ s)) fun _ => .ite (fun _ => .raised (h1 ..)) fun _ => ?_
    refine .ite (fun _ => .raised (h1 ..)) fun hcap => ?_
    refine (h1 ..).writeDst rfl rfl _ fun _ => ?_
    rw [lzwContainer_length _ (encodeLoop_codes_ne_nil henc)]
    exact Nat.not_lt.mp hcap

/-- R912's loop writes no more than DST_CAP bytes. -/
theorem decodeLoop_room {p : Platform} {a w dstA dstN k q : Nat} {bits : Bits} {r r' : LzwRun}
    (h : decodeLoop p a w dstA dstN k q bits r = .complete r') (hr : r.out.length ≤ dstN) : r'.out.length ≤ dstN := by
  induction k generalizing q bits r with
  | zero =>
    cases h
    exact hr
  | succ k ih =>
    rw [decodeLoop] at h
    split at h
    · cases h
    rcases lzwRound_cases p.lzwDictMax dstA dstN r (uint (bits.take w)) with
      ⟨x, r1, -, -, hround⟩ | ⟨e, d, r1, -, hroom, -, hround⟩
    · rw [hround p rfl] at h
      cases h
    · rw [hround p rfl] at h
      by_cases hw : allOk p .write (dstA + r.out.length) e.length = true
      · rw [if_pos hw] at h
        exact ih h (by simpa [LzwRun.after] using hroom)
      · rw [if_neg hw] at h
        cases h

theorem lzwPayload_ran (w z k : Nat) : (lzwPayload w z k s).Leaves (¬ s.TreeInv) (Ran .lzwDecompress s) := by
  have h1 := fun width mx count size => (Ran.refl .lzwDecompress s).setLzw rfl width mx count size
  rcases lzwPayload_cases w z k s with ⟨x, late, r, h⟩ | ⟨r, hloop, h⟩
  · rw [h]
    cases late
    · exact .raised (h1 ..)
    · exact .raised ((h1 ..).scrambleDst rfl rfl)
  · rw [h]
    exact (h1 ..).writeDst rfl rfl _ fun _ => decodeLoop_room hloop (Nat.zero_le _)

theorem lzwDecompressBody_ran : (lzwDecompressBody s).Leaves (¬ s.TreeInv) (Ran .lzwDecompress s) := by
  refine .ite (fun _ => .raised (.refl _ s)) fun _ => ?_
  rcases memRead_cases s.plat s.mem s.srcA 1 with h | h <;> rw [h]
  · exact .raised (.refl _ s)
  refine .ite (fun _ => .raised (.refl _ s)) fun _ => .ite (fun _ => .raised (.refl _ s)) fun _ => ?_
  rcases memRead_cases s.plat s.mem (s.srcA + 1) 1 with h | h <;> rw [h]
  · exact .raised (.refl _ s)
  exact .ite (fun _ => .raised (.refl _ s)) fun _ => .ite (fun _ => .raised (.refl _ s)) fun _ => lzwPayload_ran s _ _ _

end

/-- What a command's pseudocode has done in every state it leaves; it is stuck only where TREE_VALID stands over no tree
(R81, log 12). -/
theorem bodyOf_ran (i : Instr) (s : State) : (bodyOf i s).Leaves (¬ s.TreeInv) (Ran i s) := by
  cases i with
  | nop => exact .done ((Ran.refl _ s).setResultLen 0)
  | clear => exact clearBody_ran s
  | freqCount => exact freqCountBody_ran s
  | treeBuild => exact treeBuildBody_ran s
  | codeGen => exact codeGenBody_ran s
  | treeSerialize => exact treeSerializeBody_ran s
  | treeDeserialize => exact treeDeserializeBody_ran s
  | bitPack => exact bitPackBody_ran s
  | bitUnpack => exact bitUnpackBody_ran s
  | hufCompress => exact hufCompressBody_ran s
  | hufDecompress => exact hufDecompressBody_ran s
  | lzwCompress => exact lzwCompressBody_ran s
  | lzwDecompress => exact lzwDecompressBody_ran s

end Sys2Proof.Machine
end

section
/-! PROOF. How each command ends, from what its pseudocode has done (R303, R71), and what a disturbed one keeps (R1113). -/

namespace Sys2Proof.Machine

/-! ### The completion -/

/-- `t` is `w` after a completion, with or without an error (R303). -/
def EndsAs (w t : State) : Prop :=
  t = w.complete w.status.completed ∨ ∃ x n, t = (w.setResultLen n).complete (w.status.failed x)

/-- The next state of a part's end, from what holds in the states it leaves. -/
theorem Ending.Leaves.endsAs {c : Prop} {P : State → Prop} {e : Ending} {t : State} (h : e.Leaves c P)
    (ht : e.finish = .next t) : ∃ w, P w ∧ EndsAs w t := by
  cases h with
  | done h =>
    cases ht
    exact ⟨_, h, .inl rfl⟩
  | raised h =>
    cases ht
    exact ⟨_, h, .inr ⟨_, _, rfl⟩⟩
  | stuck h => cases ht

theorem Ending.Leaves.isNext {c : Prop} {P : State → Prop} {e : Ending} (h : e.Leaves c P) (hc : ¬c) :
    ∃ t, e.finish = .next t := by
  cases h with
  | done h => exact ⟨_, rfl⟩
  | raised h => exact ⟨_, rfl⟩
  | stuck h => exact absurd h hc

theorem badCommand_next {s t : State} (h : badCommand s = .next t) : EndsAs s t := by
  cases h
  exact .inr ⟨_, _, rfl⟩

/-- Every next state of a command: its outputs are any value when it was disturbed; else its pseudocode has run, when its
windows pass the checks, or nothing has, and it has completed. -/
theorem exec_ran {i : Instr} {s t : State} (h : exec i s = .next t) :
    (s.disturbed = true ∧ t = s.anyOutputs i) ∨
      ∃ w, Ran i s w ∧ (windowsOk i s = true ∨ w = s) ∧ EndsAs w t := by
  rcases exec_next h with hd | rfl | ⟨hw, hb⟩
  · exact .inl hd
  · exact .inr ⟨s, .refl i s, .inr rfl, .inr ⟨_, _, rfl⟩⟩
  · obtain ⟨w, hran, ht⟩ := (bodyOf_ran i s).endsAs hb
    exact .inr ⟨w, hran, .inl hw, ht⟩

/-- A command answers a next state where TREE_VALID stands over a tree only (R81). -/
theorem exec_isNext (i : Instr) {s : State} (hinv : s.TreeInv) : ∃ t, exec i s = .next t := by
  have hbody := (bodyOf_ran i s).isNext (not_not.mpr hinv)
  rw [exec_eq]
  split
  · unfold windowed
    split
    · exact ⟨_, rfl⟩
    · split
      · exact hbody
      · exact ⟨_, rfl⟩
  · exact hbody

/-! ### What a command keeps (R71) -/

theorem KeepsBut.ended {o : Outputs} {s w t : State} (h : KeepsBut o s w) (ht : EndsAs w t) : KeepsBut o s t := by
  rcases ht with rfl | ⟨x, n, rfl⟩ <;> exact { h with }

theorem anyOutputs_keepsBut (i : Instr) (s : State) : KeepsBut (outputsOf i) s (s.anyOutputs i) := by
  obtain ⟨-, -, hdropped, -, -, hargs, hfreq, htree, hcodes, hflags, horig, hlzw, -, -⟩ := anyOutputs_spec i s
  refine ⟨hargs, hdropped, hfreq, fun ht => ⟨htree ht, ?_⟩, hcodes, fun ht hc => (hflags ht hc).2, horig, hlzw⟩
  cases hd : usesDst i <;> simp [State.anyOutputs, State.freeCompletion, State.freeOutputs, ht, hd]

theorem exec_keepsBut {i : Instr} {s t : State} (h : exec i s = .next t) : KeepsBut (outputsOf i) s t := by
  rcases exec_ran h with ⟨-, rfl⟩ | ⟨w, hw, -, ht⟩
  · exact anyOutputs_keepsBut i s
  · exact hw.keeps.ended ht

/-! ### Which commands' rules name each group of registers (R202) -/

theorem outputsOf_freq (i : Instr) : (outputsOf i).freq = decide (i ∈ [Instr.clear, .freqCount, .hufCompress]) := by
  cases i <;> rfl

theorem outputsOf_tree (i : Instr) :
    (outputsOf i).tree = decide (i ∈ [Instr.clear, .treeBuild, .treeDeserialize, .hufCompress, .hufDecompress]) := by
  cases i <;> rfl

theorem outputsOf_codes (i : Instr) : (outputsOf i).codes = decide (i ∈ [Instr.clear, .codeGen, .hufCompress]) := by
  cases i <;> rfl

theorem outputsOf_origLen (i : Instr) :
    (outputsOf i).origLen = decide (i ∈ [Instr.clear, .hufCompress, .hufDecompress]) := by
  cases i <;> rfl

theorem outputsOf_lzw (i : Instr) :
    (outputsOf i).lzw = decide (i ∈ [Instr.clear, .lzwCompress, .lzwDecompress]) := by
  cases i <;> rfl

/-- Settles O9: what a command's rule names is its group of outputs, and it keeps the rest (`exec_keepsBut`). -/
theorem commandsKeepWhatTheyDoNotName : Obligations.CommandsKeepWhatTheyDoNotName := by
  unfold Obligations.CommandsKeepWhatTheyDoNotName
  intro i s t h
  have hk := exec_keepsBut h
  have htree : [Instr.clear, .treeBuild, .treeDeserialize, .hufCompress, .hufDecompress] ⊆
      [Instr.clear, .codeGen, .treeBuild, .treeDeserialize, .hufCompress, .hufDecompress] := by decide
  have hcodes : [Instr.clear, .codeGen, .hufCompress] ⊆
      [Instr.clear, .codeGen, .treeBuild, .treeDeserialize, .hufCompress, .hufDecompress] := by decide
  refine ⟨hk.args, hk.dropped, fun hi => hk.freq ?_, fun hi => hk.tree ?_, fun hi => hk.codes ?_,
    fun hi => hk.codesValid ?_ ?_, fun hi => hk.orig ?_, fun hi => hk.lzw ?_⟩
  · rw [outputsOf_freq, decide_eq_false hi]
  · rw [outputsOf_tree, decide_eq_false hi]
  · rw [outputsOf_codes, decide_eq_false hi]
  · rw [outputsOf_tree, decide_eq_false fun hm => hi (htree hm)]
  · rw [outputsOf_codes, decide_eq_false fun hm => hi (hcodes hm)]
  · rw [outputsOf_origLen, decide_eq_false hi]
  · rw [outputsOf_lzw, decide_eq_false hi]

/-! ### The lifecycle at the end of a command -/

/-- A completion of a command that ran with DONE = ERR = 0. -/
structure Idle (t : State) : Prop where
  busy : t.status.busy = false
  apart : t.status.done = true → t.status.err = false
  ecode : t.status.ecode.toNat ≤ 13
  undisturbed : t.disturbed = false

theorem EndsAs.idle {w t : State} (h : EndsAs w t) (hdone : w.status.done = false) (herr : w.status.err = false) :
    Idle t := by
  rcases h with rfl | ⟨x, n, rfl⟩
  · exact ⟨rfl, fun _ => herr, Nat.zero_le _, rfl⟩
  · exact ⟨rfl, fun h => absurd (hdone.symm.trans h) Bool.false_ne_true, (code_range x).2, rfl⟩

theorem exec_idle {i : Instr} {s t : State} (h : exec i s = .next t) (hdone : s.status.done = false)
    (herr : s.status.err = false) : Idle t := by
  rcases exec_ran h with ⟨-, rfl⟩ | ⟨w, hw, -, ht⟩
  · obtain ⟨hbusy, herr', -, hecode, hdist, -⟩ := anyOutputs_spec i s
    exact ⟨hbusy, fun hd => by rw [herr', hd]; rfl, hecode, hdist⟩
  · exact ht.idle (hw.done.trans hdone) (hw.err.trans herr)

/-! ### The tables at the end of a command (R81, R82) -/

theorem EndsAs.tables {w t : State} (h : EndsAs w t) : (w.TreeInv → t.TreeInv) ∧ (w.CodesInv → t.CodesInv) := by
  rcases h with rfl | ⟨x, n, rfl⟩ <;> exact ⟨id, id⟩

/-- A disturbed command leaves CODES_VALID only over the code table of a valid tree (R82). -/
theorem anyOutputs_codesInv (i : Instr) {s : State} (h : s.CodesInv) : (s.anyOutputs i).CodesInv := by
  unfold State.anyOutputs
  cases usesDst i <;>
  · intro hv
    by_cases ho : ((outputsOf i).tree || (outputsOf i).codes) = true
    · simp only [State.freeCompletion, ho, if_true, Bool.and_eq_true] at hv
      obtain ⟨⟨-, htree⟩, hcodes⟩ := hv
      exact ⟨htree, hcodes⟩
    · obtain ⟨ht, hc⟩ : (outputsOf i).tree = false ∧ (outputsOf i).codes = false := by simpa using ho
      simp only [State.freeCompletion, ht, hc, Bool.or_self, if_false, Bool.false_eq_true] at hv
      have := h hv
      simpa [State.codesOk, State.tree, State.freeCompletion, State.freeOutputs, ht, hc] using this

theorem exec_tables {i : Instr} {s t : State} (h : exec i s = .next t) (htree : s.TreeInv) (hcodes : s.CodesInv) :
    t.TreeInv ∧ t.CodesInv := by
  rcases exec_ran h with ⟨-, rfl⟩ | ⟨w, hw, -, ht⟩
  · exact ⟨anyOutputs_treeInv i htree, anyOutputs_codesInv i hcodes⟩
  · obtain ⟨htw, hcw⟩ := ht.tables
    exact ⟨htw (hw.tree htree), hcw (hw.codes htree hcodes)⟩

/-! ### The memory at the end of a command -/

theorem EndsAs.mem {w t : State} (h : EndsAs w t) : t.mem = w.mem := by
  rcases h with rfl | ⟨x, n, rfl⟩ <;> rfl

/-- R152, R153: what a command writes stays below 2^32. -/
theorem MemChange.wf {i : Instr} {s : State} {m : Memory} (h : MemChange i s m) (hw : windowsOk i s = true)
    (hm : s.mem.wf = true) : m.wf = true := by
  obtain ⟨-, hfit, -⟩ := (windowsOk_iff i s).mp hw
  cases h with
  | kept => exact hm
  | written out hdst hlen => exact poke_wf hm (by have := hfit hdst; omega)
  | scrambled d hdst => exact scramble_wf hm (clipLen_fits (by have := hfit hdst; omega))

theorem exec_memWf {i : Instr} {s t : State} (h : exec i s = .next t) (htree : s.TreeInv) (hm : s.mem.wf = true) :
    t.mem.wf = true := by
  rcases exec_ran h with ⟨-, rfl⟩ | ⟨w, hw, hwin, ht⟩
  · obtain ⟨-, -, -, -, -, -, -, -, -, -, -, -, hno, hdst⟩ := anyOutputs_spec i s
    cases hu : usesDst i with
    | false => rwa [hno hu]
    | true =>
      rw [hdst hu]
      exact scrambleDst_wf hm
  · rw [ht.mem]
    rcases hwin with hwin | rfl
    · exact (hw.mem htree).wf hwin hm
    · exact hm

end Sys2Proof.Machine
end

section
/-! PROOF. What every step keeps: the host's accesses and the reset beside the engine's turn (R302, R1023). -/

namespace Sys2Proof.Machine

/-! ### The host's accesses -/

/-- Everything a host access can do when it answers a next state: a register write, a store, or a read, a load or a poll,
which change nothing but the model's own fields. -/
theorem hostStep_changes {op : HostOp} {s t : State} (h : hostStep op s = .next t) :
    (∃ a v, op = .busWrite a 32 v ∧ t = s.hostWrite (regAt (a - s.plat.mmioBase)) v) ∨
      (∃ a b, a < Config.addrSpace ∧ t = s.hostStore a b) ∨
      ∃ x d c ts, (ts = s.turns ∨ ts = .engine :: .host .waitIdle :: s.turns) ∧
        t = { s with rdata := x, draw := d, claimsMet := c, turns := ts } := by
  have hread : ∀ r : Option Reg, ∃ x d, s.hostRead r = { s with rdata := x, draw := d } := by
    intro r
    cases r with
    | none => exact ⟨_, s.draw, rfl⟩
    | some r => exact ⟨_, _, rfl⟩
  rcases hostStep_next h with
    ⟨a, v, rfl, rfl⟩ | ⟨a, -, rfl⟩ | ⟨a, v, -, rfl⟩ | ⟨a, b, -, ha, rfl⟩ | ⟨a, -, -, rfl⟩ | ⟨-, rfl⟩
  · exact .inl ⟨a, v, rfl, rfl⟩
  · obtain ⟨x, d, hr⟩ := hread (regAt (a - s.plat.mmioBase))
    exact .inr (.inr ⟨x, d, s.claimsMet, s.turns, .inl rfl, hr⟩)
  · obtain ⟨x, d, hr⟩ := hread (regAt (a - s.plat.mmioBase))
    rw [hr]
    exact .inr (.inr ⟨x, d, _, s.turns, .inl rfl, rfl⟩)
  · exact .inr (.inl ⟨a, b, ha, rfl⟩)
  · unfold State.hostLoad
    split
    · exact .inr (.inr ⟨_, _, s.claimsMet, s.turns, .inl rfl, rfl⟩)
    · exact .inr (.inr ⟨_, s.draw, s.claimsMet, s.turns, .inl rfl, rfl⟩)
  · unfold State.poll
    split
    · exact .inr (.inr ⟨_, _, s.claimsMet, _, .inr rfl, rfl⟩)
    · exact .inr (.inr ⟨_, _, s.claimsMet, s.turns, .inl rfl, rfl⟩)

/-! ### The lifecycle (R56, R85, R88, R300) -/

theorem hostWrite_lifecycle {s : State} (h : s.LifecycleInv) (r : Option Reg) (v : Word) :
    (s.hostWrite r v).LifecycleInv := by
  obtain ⟨hbusy, hapart, hecode, hlatch, hdist, hplat⟩ := h
  rcases hostWrite_cases r v s with he | ⟨-, hidle, he⟩ | ⟨t, ht, he⟩ | he | ⟨hidle, a, n, d, c, o, f, he⟩
  · rw [he]
    exact ⟨hbusy, hapart, hecode, hlatch, hdist, hplat⟩
  · rw [he]
    exact ⟨fun _ => ⟨rfl, rfl⟩, (fun hd => nomatch hd), hecode, fun _ => ⟨rfl, rfl, rfl, rfl, rfl, rfl⟩,
      (fun hd => nomatch hd), hplat⟩
  · rw [he]
    rcases ht with rfl | rfl
    · exact ⟨hbusy, hapart, hecode, hlatch, hdist, hplat⟩
    · refine ⟨fun hb => ?_, fun hd => ?_, hecode, hlatch, hdist, hplat⟩
      · obtain ⟨hdone, herr⟩ := hbusy hb
        exact ⟨by simp [Status.w1c, hdone], by simp [Status.w1c, herr]⟩
      · have hdone : s.status.done = true := Bool.and_elim_left hd
        simp [Status.w1c, hapart hdone]
  · rw [he]
    exact ⟨hbusy, hapart, hecode, hlatch, hdist, hplat⟩
  · rw [he]
    have hno : ¬ s.status.busy = true := by simp [hidle]
    exact ⟨hbusy, hapart, hecode, fun hb => absurd hb hno, hdist, hplat⟩

theorem runningHas_busy {sel : Instr → State → Nat → Bool} {s : State} {a : Nat} (h : s.runningHas sel a = true) :
    s.status.busy = true := by
  cases hb : s.status.busy with
  | true => rfl
  | false => simp [State.runningHas, hb] at h

theorem hostStep_lifecycle {op : HostOp} {s t : State} (hinv : s.LifecycleInv) (h : hostStep op s = .next t) :
    t.LifecycleInv := by
  rcases hostStep_changes h with ⟨a, v, -, rfl⟩ | ⟨a, b, -, rfl⟩ | ⟨x, d, c, ts, -, rfl⟩
  · exact hostWrite_lifecycle hinv _ v
  · obtain ⟨hbusy, hapart, hecode, hlatch, hdist, hplat⟩ := hinv
    refine ⟨hbusy, hapart, hecode, hlatch, fun hd => ?_, hplat⟩
    rw [hostStore_disturbed, Bool.or_eq_true] at hd
    exact hd.elim hdist runningHas_busy
  · exact hinv

theorem Idle.lifecycle {t : State} (h : Idle t) (hplat : t.plat.wf = true) : t.LifecycleInv := by
  have hno : ¬ t.status.busy = true := by simp [h.busy]
  exact ⟨fun hb => absurd hb hno, h.apart, h.ecode, fun hb => absurd hb hno,
    fun hd => absurd (h.undisturbed.symm.trans hd) Bool.false_ne_true, hplat⟩

/-- The turns left do not matter to the invariant's parts. -/
theorem engine_turns {s s' : State} {P : State → Prop} (hP : ∀ ts, P { s with turns := ts })
    (h : s.turns = [] ∧ s' = s ∨ ∃ ts, s.turns = .engine :: ts ∧ s' = { s with turns := ts }) : P s' := by
  rcases h with ⟨-, rfl⟩ | ⟨ts, -, rfl⟩
  · exact hP s'.turns
  · exact hP ts

/-- Settles O57: by whose turn the step is; a command was launched with DONE = ERR = 0 and ends idle (`exec_idle`), and the
host writes no argument register while BUSY (`hostWrite_lifecycle`). -/
theorem stepKeepsLifecycleInv : Obligations.StepKeepsLifecycleInv := by
  unfold Obligations.StepKeepsLifecycleInv
  intro s t hinv h
  rcases step_next h with ⟨s', hs', hrun⟩ | ⟨op, ts, -, hop⟩ | ⟨ts, -, rfl⟩
  · have hinv' : s'.LifecycleInv := engine_turns (P := State.LifecycleInv) (fun _ => hinv) hs'
    have hbusy' : s'.status.busy = s.status.busy := engine_turns (P := fun u => u.status.busy = _) (fun _ => rfl) hs'
    have ⟨hbusy, _, _, _, _, hplat⟩ := hinv'
    rcases hrun with ⟨-, rfl⟩ | ⟨i, hb, -, hexec⟩ | ⟨hb, -, hbad⟩
    · exact hinv'
    · obtain ⟨hdone, herr⟩ := hbusy (hbusy'.trans hb)
      obtain ⟨-, -, -, -, -, -, -, hp, -⟩ := (exec_keepsBut hexec).args
      exact (exec_idle hexec hdone herr).lifecycle (hp ▸ hplat)
    · obtain ⟨hdone, herr⟩ := hbusy (hbusy'.trans hb)
      have hend := badCommand_next hbad
      refine (hend.idle hdone herr).lifecycle ?_
      rcases hend with rfl | ⟨x, n, rfl⟩ <;> exact hplat
  · exact hostStep_lifecycle (s := { s with turns := ts }) hinv hop
  · obtain ⟨-, -, -, -, -, hplat⟩ := hinv
    exact Idle.lifecycle ⟨rfl, (fun hd => nomatch hd), Nat.zero_le _, rfl⟩ hplat

/-! ### The tables (R81, R82) -/

/-- Whether the tables are valid depends on the tree, the code table and their flags. -/
theorem tables_of_kept {s t : State} (htree : KeepsTree s t) (hcodes : KeepsCodes s t) (hflags : KeepsFlags s t)
    (h : s.TreeInv ∧ s.CodesInv) : t.TreeInv ∧ t.CodesInv := by
  obtain ⟨hnodes, hroot, hleaves, hcount⟩ := htree
  obtain ⟨hlen, hbits⟩ := hcodes
  obtain ⟨htv, hcv⟩ := hflags
  have hok : t.treeOk = s.treeOk := by rw [State.treeOk, hnodes, hroot, hleaves, hcount, State.treeOk]
  have hcok : t.codesOk = s.codesOk := by
    rw [State.codesOk, State.tree, hnodes, hroot, hlen, hbits, State.codesOk, State.tree]
  rw [State.TreeInv, State.CodesInv, hok, hcok, htv, hcv]
  exact h

theorem hostWrite_keepsTables (r : Option Reg) (v : Word) (s : State) :
    KeepsTree s (s.hostWrite r v) ∧ KeepsCodes s (s.hostWrite r v) ∧ KeepsFlags s (s.hostWrite r v) := by
  rcases hostWrite_cases r v s with he | ⟨-, -, he⟩ | ⟨t, rfl | rfl, he⟩ | he | ⟨-, a, n, d, c, o, f, he⟩ <;> rw [he] <;>
    exact ⟨⟨rfl, rfl, rfl, rfl⟩, ⟨rfl, rfl⟩, rfl, rfl⟩

theorem hostStep_tables {op : HostOp} {s t : State} (hinv : s.TreeInv ∧ s.CodesInv) (h : hostStep op s = .next t) :
    t.TreeInv ∧ t.CodesInv := by
  rcases hostStep_changes h with ⟨a, v, -, rfl⟩ | ⟨a, b, -, rfl⟩ | ⟨x, d, c, ts, -, rfl⟩
  · obtain ⟨htree, hcodes, hflags⟩ := hostWrite_keepsTables (regAt (a - s.plat.mmioBase)) v s
    exact tables_of_kept htree hcodes hflags hinv
  · exact hinv
  · exact hinv

/-- A host write changes neither memory, nor the platform, nor the turns to come. -/
theorem hostWrite_keepsRest (r : Option Reg) (v : Word) (s : State) :
    (s.hostWrite r v).mem = s.mem ∧ (s.hostWrite r v).plat = s.plat ∧ (s.hostWrite r v).turns = s.turns := by
  rcases hostWrite_cases r v s with he | ⟨-, -, he⟩ | ⟨t, -, he⟩ | he | ⟨-, a, n, d, c, o, f, he⟩ <;> rw [he] <;>
    exact ⟨rfl, rfl, rfl⟩

/-- Settles O58: by whose turn the step is; only a command touches the tables (`exec_tables`), and what R402 builds and
R612 accepts is a valid tree (`buildTree_valid`, `parseTree_valid`). -/
theorem stepKeepsTablesInv : Obligations.StepKeepsTablesInv := by
  unfold Obligations.StepKeepsTablesInv
  intro s t hinv h
  rcases step_next h with ⟨s', hs', hrun⟩ | ⟨op, ts, -, hop⟩ | ⟨ts, -, rfl⟩
  · have hinv' := engine_turns (P := fun u => u.TreeInv ∧ u.CodesInv) (fun _ => hinv) hs'
    rcases hrun with ⟨-, rfl⟩ | ⟨i, -, -, hexec⟩ | ⟨-, -, hbad⟩
    · exact hinv'
    · exact exec_tables hexec hinv'.1 hinv'.2
    · obtain ⟨htree, hcodes⟩ := (badCommand_next hbad).tables
      exact ⟨htree hinv'.1, hcodes hinv'.2⟩
  · exact hostStep_tables (s := { s with turns := ts }) hinv hop
  · exact ⟨(fun hv => nomatch hv), fun hv => nomatch hv⟩

/-! ### Memory (R150) -/

theorem hostStep_memWf {op : HostOp} {s t : State} (hm : s.mem.wf = true) (h : hostStep op s = .next t) :
    t.mem.wf = true := by
  rcases hostStep_changes h with ⟨a, v, -, rfl⟩ | ⟨a, b, ha, rfl⟩ | ⟨x, d, c, ts, -, rfl⟩
  · rwa [(hostWrite_keepsRest _ v s).1]
  · exact write_wf hm ha
  · exact hm

theorem resetMem_wf {s : State} (hm : s.mem.wf = true) : s.resetMem.wf = true := by
  unfold State.resetMem
  split
  · split
    · exact scrambleDst_wf hm
    · exact hm
  · exact hm

/-- Every step keeps memory's canonical form, given R81's condition: a command writes in its DST window only. -/
theorem step_memWf {s t : State} (htree : s.TreeInv) (hm : s.mem.wf = true) (h : step s = .next t) :
    t.mem.wf = true := by
  rcases step_next h with ⟨s', hs', hrun⟩ | ⟨op, ts, -, hop⟩ | ⟨ts, -, rfl⟩
  · obtain ⟨htree', hm'⟩ := engine_turns (P := fun u => u.TreeInv ∧ u.mem.wf = true) (fun _ => ⟨htree, hm⟩) hs'
    rcases hrun with ⟨-, rfl⟩ | ⟨i, -, -, hexec⟩ | ⟨-, -, hbad⟩
    · exact hm'
    · exact exec_memWf hexec htree' hm'
    · rwa [(badCommand_next hbad).mem]
  · exact hostStep_memWf (s := { s with turns := ts }) hm hop
  · exact resetMem_wf (s := { s with turns := ts }) hm

/-! ### The turns to come (R90, R150), and that no admitted turn stops the machine -/

theorem hostStep_turns {op : HostOp} {s t : State} (h : hostStep op s = .next t) :
    t.plat = s.plat ∧ (t.turns = s.turns ∨ t.turns = .engine :: .host .waitIdle :: s.turns) := by
  rcases hostStep_changes h with ⟨a, v, -, rfl⟩ | ⟨a, b, -, rfl⟩ | ⟨x, d, c, ts, hts, rfl⟩
  · obtain ⟨-, hplat, hturns⟩ := hostWrite_keepsRest (regAt (a - s.plat.mmioBase)) v s
    exact ⟨hplat, .inl hturns⟩
  · exact ⟨rfl, .inl rfl⟩
  · exact ⟨rfl, hts⟩

/-- A step adds no turn but the engine's and a poll. -/
theorem step_turns {s t : State} (h : step s = .next t) :
    t.plat = s.plat ∧ ∀ tn ∈ t.turns, tn ∈ s.turns ∨ tn = .engine ∨ tn = .host .waitIdle := by
  rcases step_next h with ⟨s', hs', hrun⟩ | ⟨op, ts, hturn, hop⟩ | ⟨ts, hturn, rfl⟩
  · have hs : s'.plat = s.plat ∧ ∀ tn ∈ s'.turns, tn ∈ s.turns := by
      rcases hs' with ⟨-, rfl⟩ | ⟨ts, hturn, rfl⟩
      · exact ⟨rfl, fun _ => id⟩
      · exact ⟨rfl, fun tn htn => hturn ▸ List.mem_cons_of_mem _ htn⟩
    have ht : t.plat = s'.plat ∧ t.turns = s'.turns := by
      rcases hrun with ⟨-, rfl⟩ | ⟨i, -, -, hexec⟩ | ⟨-, -, hbad⟩
      · exact ⟨rfl, rfl⟩
      · obtain ⟨-, -, -, -, -, -, -, hplat, hturns, -⟩ := (exec_keepsBut hexec).args
        exact ⟨hplat, hturns⟩
      · rcases badCommand_next hbad with rfl | ⟨x, n, rfl⟩ <;> exact ⟨rfl, rfl⟩
    rw [ht.1, ht.2]
    exact ⟨hs.1, fun tn htn => .inl (hs.2 tn htn)⟩
  · obtain ⟨hplat, hts⟩ := hostStep_turns hop
    have hleft : ∀ tn ∈ ts, tn ∈ s.turns := fun tn htn => hturn ▸ List.mem_cons_of_mem _ htn
    refine ⟨hplat, fun tn htn => ?_⟩
    rcases hts with hts | hts <;> rw [hts] at htn
    · exact .inl (hleft tn htn)
    · simp only [List.mem_cons] at htn
      rcases htn with rfl | rfl | htn
      · exact .inr (.inl rfl)
      · exact .inr (.inr rfl)
      · exact .inl (hleft tn htn)
  · rw [hturn]
    exact ⟨rfl, fun tn htn => .inl (List.mem_cons_of_mem _ htn)⟩

theorem step_turnsWf {s t : State} (hw : s.TurnsWf) (h : step s = .next t) : t.TurnsWf := by
  obtain ⟨hplat, hturns⟩ := step_turns h
  rw [State.TurnsWf, List.all_eq_true] at hw ⊢
  intro tn htn
  rw [hplat]
  rcases hturns tn htn with hs | rfl | rfl
  · exact hw tn hs
  · rfl
  · rfl

theorem hostStep_isNext {op : HostOp} {s : State} (hplat : s.plat.wf = true) (h : op.wf s.plat = true) :
    ∃ t, hostStep op s = .next t := by
  have hroute : ∀ a w, w = 32 → a % 4 = 0 → s.plat.mmioBase ≤ a → a < s.plat.mmioBase + Config.blockSize →
      ∃ r, route s.plat a w = .ok r := by
    rintro a w rfl ha hlo hhi
    exact ⟨_, route_aligned hplat hlo hhi ha⟩
  cases op with
  | busWrite a w v | busRead a w | busReadIs a w v =>
    simp only [HostOp.wf, Bool.and_eq_true, decide_eq_true_eq] at h
    obtain ⟨⟨⟨hw, ha⟩, hlo⟩, hhi⟩ := h
    obtain ⟨r, hr⟩ := hroute a w hw ha hlo hhi
    simp only [hostStep, hr]
    exact ⟨_, rfl⟩
  | memStore a b | memLoad a => exact ⟨_, if_pos (of_decide_eq_true h)⟩
  | waitIdle => exact ⟨_, rfl⟩

theorem engineTurn_isNext {s : State} (htree : s.TreeInv) : ∃ t, engineTurn s = .next t := by
  unfold engineTurn
  split
  · split
    · next i _ => exact exec_isNext i htree
    · exact ⟨_, rfl⟩
  · exact ⟨_, rfl⟩

theorem step_isNext {s : State} (hplat : s.plat.wf = true) (htree : s.TreeInv) (hw : s.TurnsWf) :
    ∃ t, step s = .next t := by
  unfold State.TurnsWf at hw
  unfold step
  cases hs : s.turns with
  | nil => exact engineTurn_isNext htree
  | cons tn ts =>
    rw [hs, List.all_cons, Bool.and_eq_true] at hw
    cases tn with
    | engine => exact engineTurn_isNext htree
    | host op => exact hostStep_isNext (s := { s with turns := ts }) hplat hw.1
    | reset => exact ⟨_, rfl⟩

/-- Settles O60: an admitted turn answers a next state (`step_isNext`), and each part of the invariant is kept. -/
theorem stepFromInvariantNeverStops : Obligations.StepFromInvariantNeverStops := by
  unfold Obligations.StepFromInvariantNeverStops
  intro s hinv hw
  obtain ⟨hlife, htree, hcodes, hm⟩ := hinv
  obtain ⟨-, -, -, -, -, hplat⟩ := id hlife
  obtain ⟨t, ht⟩ := step_isNext hplat htree hw
  obtain ⟨htree', hcodes'⟩ := stepKeepsTablesInv s t ⟨htree, hcodes⟩ ht
  exact ⟨t, ht, ⟨stepKeepsLifecycleInv s t hlife ht, htree', hcodes', step_memWf htree hm ht⟩, step_turnsWf hw ht⟩

/-! ### BUSY (R51) -/

/-- A host access leaves BUSY at 1, and sets it by an accepted write to CMD only. -/
theorem hostStep_busy {op : HostOp} {s t : State} (h : hostStep op s = .next t) :
    t.status.busy = s.status.busy ∨
      ∃ w, op = .busWrite (s.plat.mmioBase + 0x000C) 32 w ∧ s.status.busy = false ∧ t = s.launch w := by
  rcases hostStep_changes h with ⟨a, v, rfl, rfl⟩ | ⟨a, b, -, rfl⟩ | ⟨x, d, c, ts, -, rfl⟩
  · rcases hostWrite_cases (regAt (a - s.plat.mmioBase)) v s with
      he | ⟨hcmd, hidle, he⟩ | ⟨t, rfl | rfl, he⟩ | he | ⟨-, a, n, d, c, o, f, he⟩
    · exact .inl (by rw [he])
    · refine .inr ⟨v, ?_, hidle, he⟩
      rcases route_cases s.plat a 32 with ⟨x, hx⟩ | ⟨hlo, -, -, ha, -⟩
      · simp [hostStep, hx] at h
      · have hoff : 0x000C = a - s.plat.mmioBase := offsetOf_of_regAt ha hcmd
        rw [hoff, Nat.add_sub_cancel' hlo]
    all_goals exact .inl ((congrArg (fun u : State => u.status.busy) he).trans rfl)
  · exact .inl rfl
  · exact .inl rfl

/-- Settles O6: an idle engine waits in its turn, and a host access moves BUSY by a launch only (`hostStep_busy`). -/
theorem busyChangesOnlyAsStated : Obligations.BusyChangesOnlyAsStated := by
  unfold Obligations.BusyChangesOnlyAsStated
  intro s t h
  rcases step_next h with ⟨s', hs', hrun⟩ | ⟨op, ts, hturn, hop⟩ | ⟨ts, hturn, rfl⟩
  · refine ⟨fun _ _ => ?_, fun h0 h1 => ?_⟩
    · rcases hs' with ⟨hturn, -⟩ | ⟨ts, hturn, -⟩
      · exact .inl hturn
      · exact .inr (.inl ⟨ts, hturn⟩)
    · have hbusy : s'.status.busy = s.status.busy := engine_turns (P := fun u => u.status.busy = _) (fun _ => rfl) hs'
      rcases hrun with ⟨-, rfl⟩ | ⟨i, hb, -, -⟩ | ⟨hb, -, -⟩
      · exact absurd (h0.symm.trans (hbusy.symm.trans h1)) Bool.false_ne_true
      · exact absurd (h0.symm.trans hb) Bool.false_ne_true
      · exact absurd (h0.symm.trans hb) Bool.false_ne_true
  · rcases hostStep_busy hop with hb | ⟨w, rfl, hidle, rfl⟩
    · exact ⟨fun h1 h0 => absurd (h0.symm.trans (hb.trans h1)) Bool.false_ne_true,
        fun h0 h1 => absurd (h0.symm.trans (hb.symm.trans h1)) Bool.false_ne_true⟩
    · exact ⟨(fun _ h0 => nomatch h0), fun _ _ => ⟨ts, w, hturn, rfl, rfl⟩⟩
  · exact ⟨fun _ _ => .inr (.inr ⟨ts, hturn⟩), fun _ h1 => nomatch h1⟩

end Sys2Proof.Machine
end

section
/-! PROOF. What a command does to system memory: nothing when a window check turns it away (R153, R304), and no byte
outside its DST window otherwise (R152, R162, R163); and every step keeps the memory's canonical form (R150). -/

namespace Sys2Proof.Machine

/-! ### The window checks (R153) -/

/-- A raise over an unchanged state is a failure with no other effect (R304). -/
theorem raised_failedClean (x : ErrCode) (n : Nat) (s : State) :
    ∃ t, (Ending.raised x n s).finish = .next t ∧ FailedClean x n s t := by
  refine ⟨_, rfl, ⟨rfl, rfl, rfl, rfl, rfl, rfl⟩, ?_, ?_, fun _ => rfl⟩
  · exact ⟨rfl, rfl, rfl, rfl, rfl, rfl, rfl, rfl, rfl, rfl, rfl⟩
  · exact ⟨rfl, ⟨rfl, rfl, rfl, rfl⟩, ⟨rfl, rfl⟩, ⟨rfl, rfl⟩, rfl, rfl, rfl, rfl, rfl⟩

/-- A command that uses no window passes every window check (R304). -/
theorem uses_of_not_windowsOk {i : Instr} {s : State} (hw : ¬ windowsOk i s = true) :
    (usesSrc i || usesDst i) = true := by
  by_contra hno
  rw [Bool.not_eq_true, Bool.or_eq_false_iff] at hno
  exact hw (by simp [windowsOk, hno])

/-- An undisturbed command whose windows fail a check raises BAD_ARGS before its own pseudocode (R304). -/
theorem exec_of_not_windowsOk {i : Instr} {s : State} (hd : s.disturbed = false) (hw : ¬ windowsOk i s = true) :
    exec i s = (Ending.raised .badArgs 0 s).finish := by
  rw [exec_eq, if_pos (uses_of_not_windowsOk hw), windowed, hd, if_neg Bool.false_ne_true, if_neg hw]

/-- Settles O8: each of R153's conditions fails the window checks (`windowsOk_iff`), and the raise they end in changes
nothing else. -/
theorem windowViolationEndsInBadArgs : Obligations.WindowViolationEndsInBadArgs := by
  unfold Obligations.WindowViolationEndsInBadArgs
  intro i s hd hviolated
  have hw : ¬ windowsOk i s = true := by
    intro hok
    obtain ⟨hsrc, hdst, hapart⟩ := (windowsOk_iff i s).mp hok
    rcases hviolated with ⟨hs, hpast⟩ | ⟨hu, hpast⟩ | ⟨hs, hu, hshared⟩
    · exact absurd hpast (Nat.not_lt.mpr (hsrc hs))
    · exact absurd hpast (Nat.not_lt.mpr (hdst hu))
    · exact hapart hs hu hshared
  rw [exec_of_not_windowsOk hd hw]
  exact raised_failedClean .badArgs 0 s

/-! ### What a command writes (R152, R162, R163) -/

/-- A command changes memory in one of the three ways of `MemChange`, a disturbed one too (R1113). -/
theorem exec_memChange {i : Instr} {s t : State} (h : exec i s = .next t) (htree : s.TreeInv) :
    MemChange i s t.mem := by
  rcases exec_ran h with ⟨-, rfl⟩ | ⟨w, hw, -, ht⟩
  · obtain ⟨-, -, -, -, -, -, -, -, -, -, -, -, hno, hdst⟩ := anyOutputs_spec i s
    cases hu : usesDst i with
    | false =>
      rw [hno hu]
      exact .kept
    | true =>
      rw [hdst hu]
      exact .scrambled s.draw hu
  · rw [ht.mem]
    exact hw.mem htree

theorem MemChange.eq_of_no_dst {i : Instr} {s : State} {m : Memory} (h : MemChange i s m) (hu : usesDst i = false) :
    m = s.mem := by
  cases h with
  | kept => rfl
  | written out hdst hlen => exact absurd (hu.symm.trans hdst) Bool.false_ne_true
  | scrambled d hdst => exact absurd (hu.symm.trans hdst) Bool.false_ne_true

theorem MemChange.read_outside {i : Instr} {s : State} {m : Memory} (h : MemChange i s m) {a : Nat}
    (ha : a < s.dstA ∨ s.dstA + s.dstN ≤ a) : m.read a = s.mem.read a := by
  cases h with
  | kept => rfl
  | written out hdst hlen => exact read_poke_outside (by omega)
  | scrambled d hdst =>
    have hle : clipLen s.dstA s.dstN ≤ s.dstN := Nat.min_le_left _ _
    exact read_scramble_outside (by omega)

/-- Settles O10: a command's change of memory (`exec_memChange`) is none without a DST window and stays inside it
otherwise. -/
theorem commandsWriteOnlyTheirDst : Obligations.CommandsWriteOnlyTheirDst := by
  unfold Obligations.CommandsWriteOnlyTheirDst
  intro i s t htree h
  have hchange := exec_memChange h htree
  exact ⟨fun hu a => by rw [hchange.eq_of_no_dst hu], fun _ a ha => hchange.read_outside ha⟩

/-! ### The canonical form (R150) -/

/-- Settles O59: the invariant's tree and memory parts are what `step_memWf` asks for. -/
theorem stepKeepsMemoryForm : Obligations.StepKeepsMemoryForm := by
  unfold Obligations.StepKeepsMemoryForm
  intro s t hinv h
  obtain ⟨-, htree, -, hm⟩ := hinv
  exact step_memWf htree hm h

end Sys2Proof.Machine
end

section
/-! PROOF. The encodings: command words and the illegal ones (R200 to R204), the size of a serialized tree (R207), the
packed stream (R208). -/

namespace Sys2Proof.Machine

/-! ### Command words (R200, R202, R204) -/

/-- A search of a map answers a row of the map. -/
theorem mem_of_rowOf {o : Byte} {i : Instr} {rows : List (Byte × Instr)} (h : rowOf o rows = some i) :
    (o, i) ∈ rows := by
  induction rows with
  | nil => cases h
  | cons row rows ih =>
    obtain ⟨o', i'⟩ := row
    by_cases ho : o = o'
    · rw [rowOf, if_pos ho] at h
      cases h
      exact ho ▸ List.mem_cons_self
    · rw [rowOf, if_neg ho] at h
      exact List.mem_cons_of_mem _ (ih h)

/-- Each row of the opcode map holds its command's OPC. -/
theorem opcodeOf_of_mem {row : Byte × Instr} (h : row ∈ opcodeMap) : opcodeOf row.2 = row.1 := by
  revert row
  decide

/-- The opcode map and `opcodeOf` are one table (R202). -/
theorem rowOf_opcodeMap_iff (o : Byte) (i : Instr) : rowOf o opcodeMap = some i ↔ o = opcodeOf i := by
  constructor
  · exact fun h => (opcodeOf_of_mem (mem_of_rowOf h)).symm
  · rintro rfl
    cases i <;> rfl

/-- A word is a byte zero-extended exactly when its upper 24 bits are 0 and its low 8 bits the byte. -/
theorem eq_setWidth_iff (w : Word) (o : Byte) :
    w = BitVec.setWidth 32 o ↔ BitVec.extractLsb' 8 24 w = 0 ∧ BitVec.extractLsb' 0 8 w = o := by
  have hw := w.isLt
  have ho := o.isLt
  simp only [← BitVec.toNat_inj, BitVec.toNat_setWidth, BitVec.extractLsb'_toNat, Nat.shiftRight_eq_div_pow,
    BitVec.ofNat_eq_ofNat, BitVec.toNat_ofNat]
  omega

theorem decode_eq_ok_iff (w : Word) (i : Instr) :
    decode w = .ok i ↔ BitVec.extractLsb' 8 24 w = 0 ∧ rowOf (BitVec.extractLsb' 0 8 w) opcodeMap = some i := by
  unfold decode
  by_cases hrsvd : BitVec.extractLsb' 8 24 w = 0
  · rw [if_neg (not_not.mpr hrsvd)]
    cases rowOf (BitVec.extractLsb' 0 8 w) opcodeMap <;> simp [hrsvd]
  · rw [if_pos hrsvd]
    exact iff_of_false nofun fun h => hrsvd h.1

/-- The decoder reads a command from its own word only (R200, R202). -/
theorem decode_eq_ok_iff_eq_encode (w : Word) (i : Instr) : decode w = .ok i ↔ w = encode i := by
  rw [decode_eq_ok_iff, rowOf_opcodeMap_iff, encode, eq_setWidth_iff]

theorem decode_encode (i : Instr) : decode (encode i) = .ok i := (decode_eq_ok_iff_eq_encode _ i).mpr rfl

/-- Settles O1: RSVD and OPC determine a word (`eq_setWidth_iff`), and the opcode map is the table of the OPCs
(`rowOf_opcodeMap_iff`). -/
theorem decodeInvertsEncode : Obligations.DecodeInvertsEncode := by
  unfold Obligations.DecodeInvertsEncode
  intro w i _
  exact decode_eq_ok_iff_eq_encode w i

/-- Settles O2: each number is its command's word, which decodes to the command (`decode_encode`). -/
theorem commandWordsDecodeAsTabulated : Obligations.CommandWordsDecodeAsTabulated := by
  unfold Obligations.CommandWordsDecodeAsTabulated
  exact ⟨decode_encode .nop, decode_encode .clear, decode_encode .freqCount, decode_encode .treeBuild,
    decode_encode .codeGen, decode_encode .treeSerialize, decode_encode .treeDeserialize, decode_encode .bitPack,
    decode_encode .bitUnpack, decode_encode .hufCompress, decode_encode .hufDecompress, decode_encode .lzwCompress,
    decode_encode .lzwDecompress⟩

/-! ### Illegal words (R203) -/

/-- Only the word of a command selects one. -/
theorem command_eq_none {s : State} (h : ∀ i, s.latch.cmd ≠ encode i) : s.command = none := by
  unfold State.command
  cases hd : decode s.latch.cmd with
  | ok i => exact absurd ((decode_eq_ok_iff_eq_encode _ i).mp hd) (h i)
  | error _ => rfl

/-- An idle engine accepts a write to CMD (R300). -/
theorem hostWrite_cmd_of_idle {s : State} (h : s.status.busy = false) (w : Word) :
    s.hostWrite (some .cmd) w = s.launch w := if_neg (by simp [h])

/-- The engine's turn comes when it is scheduled or nothing is (log 2); `ts` are the turns left. -/
theorem step_eq_engineTurn {s : State} {ts : List Turn} (h : s.turns = [] ∧ ts = [] ∨ s.turns = .engine :: ts) :
    step s = engineTurn { s with turns := ts } := by
  rcases h with ⟨hs, rfl⟩ | hs
  · have hkept : { s with turns := [] } = s := by rw [← hs]
    rw [hkept, step, hs]
  · rw [step, hs]

/-- The turn of an engine that runs an illegal word (R203, R304). -/
theorem engineTurn_of_illegal {s : State} (hbusy : s.status.busy = true) (h : ∀ i, s.latch.cmd ≠ encode i) :
    engineTurn s = badCommand s := by
  simp [engineTurn, hbusy, command_eq_none h]

/-- Settles O3: the write launches the word, the engine's turn finds no command, and its raise is clean
(`raised_failedClean`). -/
theorem illegalWordFailsAtOnce : Obligations.IllegalWordFailsAtOnce := by
  unfold Obligations.IllegalWordFailsAtOnce
  intro s w ts hidle hw hturns
  rw [hostWrite_cmd_of_idle hidle, step_eq_engineTurn (by simpa using hturns)]
  refine ⟨rfl, rfl, ?_⟩
  rw [engineTurn_of_illegal (s := { s.launch w with turns := ts }) rfl hw]
  exact raised_failedClean .badCommand 0 _

/-! ### The size of a serialized tree (R207) -/

/-- A full binary tree has one leaf more than internal nodes. -/
theorem inner_add_one (t : Tree) : t.inner + 1 = t.leaves.length := by
  induction t with
  | leaf v => rfl
  | node l r ihl ihr => simp only [Tree.inner, Tree.leaves, List.length_append]; omega

/-- Settles O36: the counts of internal nodes and of preorder bits (`inner_add_one`, `pre_length`), and the bytes of the
padded bits (`ser_length`). -/
theorem serializationHasStatedLength : Obligations.SerializationHasStatedLength := by
  unfold Obligations.SerializationHasStatedLength
  refine ⟨fun t => ?_, fun _ => rfl, by decide⟩
  have hinner := inner_add_one t
  have hpre := pre_length t
  exact ⟨by omega, by omega, by omega, ser_length _ t⟩

/-! ### The bits of a number (R11) -/

theorem bitlen_le_iff (v k : Nat) : bitlen v ≤ k ↔ v < 2 ^ k := by
  unfold bitlen
  by_cases hv : v = 0
  · simp [hv]
  · rw [if_neg hv, Nat.succ_le_iff, Nat.log2_lt hv]

/-- The digits past a number's length are leading zeros. -/
theorem bin_of_bitlen_le {k v : Nat} (h : bitlen v ≤ k) :
    bin k v = List.replicate (k - bitlen v) false ++ bin (bitlen v) v := by
  induction k with
  | zero => simp [Nat.le_zero.mp h, bin]
  | succ k ih =>
    rcases Nat.le_succ_iff.mp h with hle | heq
    · have hbit : v.testBit k = false := Nat.testBit_lt_two_pow ((bitlen_le_iff v k).mp hle)
      rw [bin, hbit, ih hle, Nat.succ_sub hle, List.replicate_succ, List.cons_append]
    · simp [heq]

/-- The first digit of a nonzero number at its own length is 1. -/
theorem bin_bitlen {v : Nat} (h : v ≠ 0) : bin (bitlen v) v = true :: bin (bitlen v - 1) v := by
  have hlen : bitlen v = v.log2 + 1 := if_neg h
  rw [hlen, bin, Nat.testBit_log2 h, Nat.add_sub_cancel]

/-! ### The packed stream (R208) -/

/-- A nonzero byte is its leading zeros, a 1 and the digits below it. -/
theorem bin_byte {b : Byte} (h : b ≠ 0#8) :
    bin 8 b.toNat = List.replicate (leadingZeros b) false ++ true :: bin (bitlen b.toNat - 1) b.toNat := by
  have hne : b.toNat ≠ 0 := fun h0 => h (BitVec.eq_of_toNat_eq h0)
  rw [bin_of_bitlen_le ((bitlen_le_iff _ 8).mpr b.isLt), bin_bitlen hne, leadingZeros]

theorem leadingZeros_le_seven {b : Byte} (h : b ≠ 0#8) : leadingZeros b ≤ 7 :=
  leadingZeros_le fun h0 => h (BitVec.eq_of_toNat_eq h0)

/-- A stream with a nonzero first byte is zeros, the sentinel and the payload. -/
theorem bitsOf_cons {b : Byte} (h : b ≠ 0#8) (bs : List Byte) :
    bitsOf (b :: bs) = List.replicate (leadingZeros b) false ++ true :: payloadBits (b :: bs) := by
  simp [payloadBits, bitsOf, bin_byte h, List.drop_append]

/-- Where the first 1 of a bit string stands. -/
theorem idxOf_sentinel (z : Nat) (p : Bits) : (List.replicate z false ++ true :: p).idxOf true = z := by
  rw [List.idxOf_append_of_notMem (by simp [List.mem_replicate]), List.length_replicate, List.idxOf_cons_self,
    Nat.add_zero]

/-- A stream that begins with fewer than 8 zeros and a 1 has a first byte, and it is not 0. -/
theorem first_byte_ne_zero {bs : List Byte} {z : Nat} {p : Bits} (hz : z < 8)
    (h : bitsOf bs = List.replicate z false ++ true :: p) : ∃ b cs, bs = b :: cs ∧ b ≠ 0#8 := by
  cases bs with
  | nil => simp [bitsOf] at h
  | cons b cs =>
    refine ⟨b, cs, rfl, ?_⟩
    rintro rfl
    have hzeros : bitsOf (0#8 :: cs) = List.replicate 8 false ++ bitsOf cs := rfl
    have hidx := idxOf_sentinel z p
    rw [← h, hzeros, List.idxOf_append_of_notMem (by simp), List.length_replicate] at hidx
    omega

/-- What `unpack` drops is determined by the bits: the zeros before the first 1, and that 1. -/
theorem unpack_of_bitsOf {bs : List Byte} {z : Nat} {p : Bits} (hz : z < 8)
    (h : bitsOf bs = List.replicate z false ++ true :: p) : unpack bs = some p := by
  obtain ⟨b, cs, rfl, hb⟩ := first_byte_ne_zero hz h
  have hbits : List.replicate (leadingZeros b) false ++ true :: payloadBits (b :: cs) =
      List.replicate z false ++ true :: p := (bitsOf_cons hb cs).symm.trans h
  have hlead : leadingZeros b = z := by
    simpa only [idxOf_sentinel] using congrArg (List.idxOf true) hbits
  rw [hlead] at hbits
  have hpayload : payloadBits (b :: cs) = p := (List.cons.inj (List.append_cancel_left hbits)).2
  rw [unpack, if_neg hb, hpayload]

/-- The bits of a packed stream, with the padding as R208 writes it. -/
theorem bitsOf_pack_eq_sentinel (p : Bits) :
    bitsOf (pack p) = List.replicate (padCount (p.length + 1)) false ++ true :: p := by
  rw [bitsOf_pack, streamHead, List.append_assoc, List.singleton_append]

theorem unpack_pack (p : Bits) : unpack (pack p) = some p :=
  unpack_of_bitsOf (padCount_spec (p.length + 1)).2 (bitsOf_pack_eq_sentinel p)

/-- Settles O41: a packed stream unpacks by its bits (`unpack_of_bitsOf`), and a nonzero first byte holds the sentinel
(`bin_byte`). -/
theorem packedStreamRoundTrip : Obligations.PackedStreamRoundTrip := by
  unfold Obligations.PackedStreamRoundTrip
  refine ⟨fun p => ⟨unpack_pack p, pack_length p, ?_, bitsOf_pack_eq_sentinel p⟩, rfl, fun _ => rfl,
    fun b bs hb => ?_⟩
  · rw [pack_length, packedLen, ceilDiv]
    omega
  · refine ⟨leadingZeros b, leadingZeros_le_seven hb, ?_, by rw [unpack, if_neg hb, payloadBits]⟩
    rw [bin_byte hb]
    simp [List.take_append]

end Sys2Proof.Machine
end

section
/-! PROOF. The command lifecycle: launch (R300), the engine's turn (R302), the end of a command (R303), and the two
commands that only complete, NOP (R310) and CLEAR (R312). -/

namespace Sys2Proof.Machine

/-! ### How a command ends (R303, R1014, R1020) -/

/-- A completion of a command that ran with DONE = ERR = 0 sets exactly one of the two, DONE with ECODE 0 only. -/
theorem EndsAs.done_iff {w t : State} (h : EndsAs w t) (hdone : w.status.done = false) (herr : w.status.err = false) :
    (t.status.done = !t.status.err) ∧ (t.status.done = true ↔ t.status.ecode = 0#4) := by
  rcases h with rfl | ⟨x, n, rfl⟩
  · simp [Status.completed, herr]
  · have hcode : x.code ≠ 0#4 := fun h0 => absurd (code_range x).1 (by simp [h0])
    simp [Status.failed, hdone, hcode]

theorem exec_done_iff {i : Instr} {s t : State} (h : exec i s = .next t) (hdone : s.status.done = false)
    (herr : s.status.err = false) :
    (t.status.done = !t.status.err) ∧ (s.disturbed = false → (t.status.done = true ↔ t.status.ecode = 0#4)) := by
  rcases exec_ran h with ⟨hd, rfl⟩ | ⟨w, hw, -, ht⟩
  · obtain ⟨-, hone, -⟩ := anyOutputs_spec i s
    exact ⟨by rw [hone, Bool.not_not], fun hno => absurd (hno.symm.trans hd) Bool.false_ne_true⟩
  · obtain ⟨hone, hcode⟩ := ht.done_iff (hw.done.trans hdone) (hw.err.trans herr)
    exact ⟨hone, fun _ => hcode⟩

/-- R87: over a command that has ended, the interrupt output is IRQ_EN. -/
theorem irq_of_ended {t : State} (h : t.status.done = !t.status.err) : t.irq = t.ctrl.irqEn := by
  rw [State.irq, h, Bool.not_or_self, Bool.and_true]

/-- Settles O7: the end is idle (`exec_idle`), with exactly one of DONE and ERR (`exec_done_iff`), and a command keeps
DROPPED and CTRL (`exec_keepsBut`). -/
theorem commandEndsIdle : Obligations.CommandEndsIdle := by
  unfold Obligations.CommandEndsIdle
  intro i s t h hdone herr
  have hidle := exec_idle h hdone herr
  have hkeeps := exec_keepsBut h
  obtain ⟨hone, hcode⟩ := exec_done_iff h hdone herr
  obtain ⟨hctrl, -⟩ := hkeeps.args
  exact ⟨hidle.busy, hone, hidle.ecode, hcode, hkeeps.dropped, by rw [irq_of_ended hone, hctrl]⟩

/-! ### Whose turn a step is (R302, R1023) -/

theorem step_of_no_turns {s : State} (h : s.turns = []) : step s = engineTurn s := by rw [step, h]

theorem engineTurn_of_idle {s : State} (h : s.status.busy = false) : engineTurn s = .next s := by simp [engineTurn, h]

/-- A busy engine runs the command its latched word decodes to (R302, R304). -/
theorem engineTurn_of_decode {s : State} {i : Instr} (hbusy : s.status.busy = true) (h : decode s.latch.cmd = .ok i) :
    engineTurn s = exec i s := by
  have hcommand : s.command = some i := by rw [State.command, h]
  simp [engineTurn, hbusy, hcommand]

/-- Settles O4: the engine's turn waits (`engineTurn_of_idle`) or runs the command (`engineTurn_of_decode`); the
host's and the reset input's turns are the two other cases of a step. -/
theorem stepRunsLatchedCommand : Obligations.StepRunsLatchedCommand := by
  unfold Obligations.StepRunsLatchedCommand
  refine ⟨fun s hidle => ⟨fun hs => ?_, fun ts hs => ?_⟩, fun s i hbusy hi _ => ⟨fun hs => ?_, fun ts hs => ?_⟩,
    fun s ts => ⟨fun op hs => ?_, fun hs => ?_⟩⟩
  · rw [step_of_no_turns hs, engineTurn_of_idle hidle]
  · rw [step_eq_engineTurn (.inr hs)]
    exact engineTurn_of_idle hidle
  · rw [step_of_no_turns hs, engineTurn_of_decode hbusy hi]
  · rw [step_eq_engineTurn (.inr hs)]
    exact engineTurn_of_decode hbusy hi
  · rw [step, hs]
  · rw [step, hs]

/-! ### Launch (R300) -/

/-- Settles O5: an idle engine accepts the write (`hostWrite_cmd_of_idle`), and `State.launch` is R300's effect. -/
theorem launchLatchesArguments : Obligations.LaunchLatchesArguments := by
  unfold Obligations.LaunchLatchesArguments
  intro s w hidle
  rw [hostWrite_cmd_of_idle hidle]
  rfl

/-! ### NOP and CLEAR (R310, R312) -/

/-- A command without a window runs its pseudocode, whatever the host has stored (R304, R1113). -/
theorem exec_of_no_window {i : Instr} (h : (usesSrc i || usesDst i) = false) (s : State) :
    exec i s = (bodyOf i s).finish := by
  rw [exec_eq, h, if_neg Bool.false_ne_true]

/-- Settles O22: NOP's pseudocode writes RESULT_LEN alone and runs to its last line. -/
theorem nopCompletes : Obligations.NopCompletes := by
  unfold Obligations.NopCompletes
  refine ⟨rfl, fun s => ?_⟩
  rw [exec_of_no_window rfl, bodyOf, nopBody, finish_done]
  rfl

/-- A completion writes no register but STATUS. -/
theorem regValue_complete {r : Reg} (h : r ≠ .status) (x : Status) (s : State) :
    regValue (s.complete x) r = regValue s r := by
  cases r with
  | status => exact absurd rfl h
  | _ => rfl

/-- R312: the registers CLEAR keeps are CTRL, CMD and the arguments, and it writes two bits of STATUS. -/
theorem regValue_cleared {r : Reg} (h : r ∉ [Reg.ctrl, .status, .cmd, .srcAddr, .srcLen, .dstAddr, .dstCap])
    (s : State) : regValue s.cleared r = regValue State.reset r := by
  cases r with
  | ctrl | status | cmd | srcAddr | srcLen | dstAddr | dstCap => exact absurd (by decide) h
  | _ => rfl

/-- Settles O23: CLEAR's pseudocode is `State.cleared`, which leaves each result register at its reset value
(`regValue_cleared`), and the completion adds STATUS only (`regValue_complete`). -/
theorem clearCompletes : Obligations.ClearCompletes := by
  unfold Obligations.ClearCompletes
  refine ⟨rfl, fun s => ?_⟩
  have hexec : exec .clear s = .next (s.cleared.complete s.cleared.status.completed) := by
    rw [exec_of_no_window rfl, bodyOf, clearBody, finish_done]
  refine ⟨_, hexec, ⟨rfl, rfl, rfl, rfl, rfl⟩, (exec_keepsBut hexec).args, fun _ => rfl, rfl, rfl, fun r hr => ?_⟩
  have hstatus : r ≠ .status := fun he => hr (by simp [he])
  rw [regValue_complete hstatus, regValue_cleared hr]

end Sys2Proof.Machine
end

section
/-! PROOF. FREQ_COUNT, and the prechecks of TREE_BUILD (R400, R402): the counts of the bytes read, and the three ends of
the pseudocode of TREE_BUILD. -/

namespace Sys2Proof.Machine

/-! ### FREQ_COUNT (R400) -/

/-- The accesses before the first refused one are the accepted ones (R13). -/
theorem okCount_of_first_refused {p : Platform} {k : AccessKind} {a n m : Nat} (hn : n < m)
    (hok : allOk p k a n = true) (hno : memOk p k (a + n) = false) : okCount p k a m = n := by
  induction n generalizing a m with
  | zero =>
    obtain ⟨m, rfl⟩ := Nat.exists_eq_succ_of_ne_zero (Nat.ne_of_gt hn)
    rw [Nat.add_zero] at hno
    simp [okCount, hno]
  | succ n ih =>
    obtain ⟨m, rfl⟩ := Nat.exists_eq_succ_of_ne_zero (Nat.ne_of_gt (Nat.zero_lt_of_lt hn))
    rw [allOk, Bool.and_eq_true] at hok
    obtain ⟨hfirst, hrest⟩ := hok
    rw [okCount, if_pos hfirst, ih (Nat.lt_of_succ_lt_succ hn) hrest (by rwa [Nat.add_right_comm, Nat.add_assoc])]

theorem allOk_of_refused {p : Platform} {k : AccessKind} {a n m : Nat} (hn : n < m) (hno : memOk p k (a + n) = false) :
    allOk p k a m = false := by
  refine Bool.eq_false_iff.mpr fun hall => ?_
  exact absurd (allOk_iff.mp hall (a + n) (by omega) (by omega)) (by simp [hno])

theorem exec_freqCount {s : State} (hd : s.disturbed = false) (hw : windowsOk .freqCount s = true) :
    exec .freqCount s = (freqCountBody s).finish := windowed_run hd hw

theorem freqCountBody_of_empty {s : State} (h : s.srcN = 0) : freqCountBody s = .raised .emptyInput 0 s := if_pos h

theorem freqCountBody_of_readable {s : State} (hn : s.srcN ≠ 0) (h : s.SrcReadable) :
    freqCountBody s = .done (s.countedSrc.setResultLen 0) := by
  rw [freqCountBody, if_neg hn, freqBody_of_allOk h, andThen_done]

/-- R400: at the first refused read the loop has counted the bytes before it. -/
theorem freqCountBody_of_refused {s : State} {n : Nat} (hn : n < s.srcN) (hok : allOk s.plat .read s.srcA n = true)
    (hno : memOk s.plat .read (s.srcA + n) = false) :
    freqCountBody s = .raised .busError 0 (s.setFreq (countBytes zeroFreq (s.mem.peek s.srcA n))) := by
  have hread : readable s.plat s.mem s.srcA s.srcN = s.mem.peek s.srcA n := by
    rw [readable, okCount_of_first_refused hn hok hno]
  have hrefused := allOk_of_refused hn hno
  rcases freqBody_cases s with ⟨hall, -⟩ | ⟨-, hraise⟩
  · exact absurd hall (by simp [hrefused])
  · rw [freqCountBody, if_neg (by omega), hraise, andThen_raised, hread]

/-- What FREQ_COUNT keeps beside memory is what its rule does not name (`exec_keepsBut`). -/
theorem freqCount_keeps {s t : State} (h : exec .freqCount s = .next t) (hmem : t.mem = s.mem) :
    KeepsArgs s t ∧ KeepsTree s t ∧ KeepsCodes s t ∧ KeepsFlags s t ∧ KeepsOrig s t ∧ KeepsLzw s t ∧ KeepsMem s t := by
  have hkeeps := exec_keepsBut h
  obtain ⟨htree, hvalid⟩ := hkeeps.tree rfl
  exact ⟨hkeeps.args, htree, hkeeps.codes rfl, ⟨hvalid, hkeeps.codesValid rfl rfl⟩, hkeeps.orig rfl, hkeeps.lzw rfl,
    fun a => by rw [hmem]⟩

/-- The bytes of a part of the SRC window are fewer than an entry can count. -/
theorem peek_src_length_lt {s : State} {n : Nat} (h : n ≤ s.srcN) : (s.mem.peek s.srcA n).length < 2 ^ 32 := by
  rw [peek_length]
  exact Nat.lt_of_le_of_lt h s.latch.srcLen.isLt

/-- Settles O24: over a readable window the pseudocode ends with every byte counted (`freqCountBody_of_readable`), an
entry holds the count of its value (`countBytes_toNat`), and the rest is kept (`freqCount_keeps`). -/
theorem freqCountCompletes : Obligations.FreqCountCompletes := by
  unfold Obligations.FreqCountCompletes
  intro s hd hw hn hread
  have hexec := exec_freqCount hd hw
  rw [freqCountBody_of_readable hn hread, finish_done] at hexec
  exact ⟨_, hexec, ⟨rfl, rfl, rfl, rfl, rfl⟩, rfl, fun b => countBytes_toNat (peek_src_length_lt (Nat.le_refl _)) b,
    freqCount_keeps hexec rfl⟩

/-- Settles O25: an empty window raises over the state as it was; a refused read raises over the counts of the bytes
before it (`freqCountBody_of_refused`). -/
theorem freqCountErrors : Obligations.FreqCountErrors := by
  unfold Obligations.FreqCountErrors
  intro s hd hw
  have hexec := exec_freqCount hd hw
  refine ⟨fun hn => ?_, fun n hn hok hno => ?_⟩
  · rw [hexec, freqCountBody_of_empty hn]
    exact raised_failedClean .emptyInput 0 s
  · rw [freqCountBody_of_refused hn hok hno, finish_raised] at hexec
    exact ⟨_, hexec, ⟨rfl, rfl, rfl, rfl, rfl, rfl⟩, fun b => countBytes_toNat (peek_src_length_lt hn.le) b,
      freqCount_keeps hexec rfl⟩

/-! ### The byte values counted (R402) -/

theorem mem_symsOf {f : Vector Word 256} {b : Byte} : b ∈ symsOf f ↔ atByte f b ≠ 0#32 := by
  simp [symsOf, mem_allBytes]

theorem symsOf_eq_nil_iff {f : Vector Word 256} : symsOf f = [] ↔ ∀ b, atByte f b = 0#32 := by
  simp [List.eq_nil_iff_forall_not_mem, mem_symsOf]

theorem freqSum_of_symsOf_nil {f : Vector Word 256} (h : symsOf f = []) : freqSum f = 0 := by
  refine List.sum_eq_zero fun x hx => ?_
  obtain ⟨b, -, rfl⟩ := List.mem_map.mp hx
  rw [symsOf_eq_nil_iff.mp h b]
  rfl

/-! ### The prechecks of TREE_BUILD (R402) -/

theorem exec_treeBuild (s : State) : exec .treeBuild s = (treeBuildBody s).finish := exec_of_no_window rfl s

/-- How TREE_BUILD's pseudocode ends: no candidate, a FREQ sum past 32 bits, or the tree. -/
theorem treeBuildBody_cases (s : State) :
    (symsOf s.freq = [] ∧ treeBuildBody s = .raised .emptyInput 0 s) ∨
      (symsOf s.freq ≠ [] ∧ Config.wordMax < freqSum s.freq ∧ treeBuildBody s = .raised .limit 0 s) ∨
      (symsOf s.freq ≠ [] ∧ freqSum s.freq ≤ Config.wordMax ∧
        treeBuildBody s = .done ((buildBody s).setResultLen 0)) := by
  simp only [treeBuildBody, List.length_eq_zero_iff]
  by_cases hnil : symsOf s.freq = []
  · exact .inl ⟨hnil, if_pos hnil⟩
  · rw [if_neg hnil]
    by_cases hsum : Config.wordMax < freqSum s.freq
    · exact .inr (.inl ⟨hnil, hsum, if_pos hsum⟩)
    · exact .inr (.inr ⟨hnil, Nat.le_of_not_lt hsum, if_neg hsum⟩)

/-- Settles O30: each precheck raises over the state as it was; a sum past 32 bits has a nonzero entry
(`freqSum_of_symsOf_nil`), so that the two exclude each other. -/
theorem treeBuildPrechecks : Obligations.TreeBuildPrechecks := by
  unfold Obligations.TreeBuildPrechecks
  intro s
  rw [exec_treeBuild]
  refine ⟨fun hzero => ?_, fun hsum => ?_⟩
  · rcases treeBuildBody_cases s with ⟨-, hbody⟩ | ⟨hsyms, -⟩ | ⟨hsyms, -⟩
    · rw [hbody]
      exact raised_failedClean .emptyInput 0 s
    · exact absurd (symsOf_eq_nil_iff.mpr hzero) hsyms
    · exact absurd (symsOf_eq_nil_iff.mpr hzero) hsyms
  · rcases treeBuildBody_cases s with ⟨hnil, -⟩ | ⟨-, -, hbody⟩ | ⟨-, hfits, -⟩
    · exact absurd (hsum.trans_eq (freqSum_of_symsOf_nil hnil)) (Nat.not_lt_zero _)
    · rw [hbody]
      exact raised_failedClean .limit 0 s
    · exact absurd hsum (Nat.not_lt.mpr hfits)

/-- A TREE_BUILD that ends with ECODE 0 passed its prechecks and left the tree of its FREQ window. -/
theorem treeBuild_of_completed {s t : State} (h : exec .treeBuild s = .next t) (h0 : t.status.ecode = 0#4) :
    symsOf s.freq ≠ [] ∧ freqSum s.freq ≤ Config.wordMax ∧
      t = ((buildBody s).setResultLen 0).complete (buildBody s).status.completed := by
  rw [exec_treeBuild] at h
  obtain ⟨v, hv, rfl⟩ := finish_completed h h0
  rcases treeBuildBody_cases s with ⟨-, hbody⟩ | ⟨-, -, hbody⟩ | ⟨hsyms, hsum, hbody⟩
  · rw [hbody] at hv; cases hv
  · rw [hbody] at hv; cases hv
  · rw [hbody] at hv
    cases hv
    exact ⟨hsyms, hsum, rfl⟩

end Sys2Proof.Machine
end

section
/-! PROOF. The queue of TREE_BUILD (R401): an extraction yields the element of least key, whatever order the queue is held
in. -/

namespace Sys2Proof.Machine

/-! ### The order of the keys -/

theorem keyBelow_iff {ns : Nodes} {a b : Nat} :
    keyBelow ns a b = true ↔ (nodeAt ns a).prio.toNat < (nodeAt ns b).prio.toNat ∨
      (nodeAt ns a).prio.toNat = (nodeAt ns b).prio.toNat ∧ a < b := by
  simp [keyBelow]

theorem keyBelow_trans {ns : Nodes} {a b c : Nat} (hab : keyBelow ns a b = true) (hbc : keyBelow ns b c = true) :
    keyBelow ns a c = true := by
  rw [keyBelow_iff] at *
  omega

theorem keyBelow_asymm {ns : Nodes} {a b : Nat} (hab : keyBelow ns a b = true) : ¬ keyBelow ns b a = true := by
  rw [keyBelow_iff] at *
  omega

/-- Two indices have different keys. -/
theorem eq_or_keyBelow_of_not {ns : Nodes} {a b : Nat} (h : ¬ keyBelow ns a b = true) :
    a = b ∨ keyBelow ns b a = true := by
  rw [keyBelow_iff] at *
  omega

/-! ### Extraction -/

/-- The loop of `minkey` ends at an element that no element has a lower key than. -/
theorem minKey_least (ns : Nodes) (q : List Nat) (m : Nat) :
    ∀ b ∈ m :: q, b = minKey ns m q ∨ keyBelow ns (minKey ns m q) b = true := by
  induction q generalizing m with
  | nil => simp [minKey]
  | cons a q ih =>
    intro b hb
    rw [minKey]
    have hround : b ∈ q ∨ b = (if keyBelow ns a m = true then a else m) ∨
        keyBelow ns (if keyBelow ns a m = true then a else m) b = true := by
      rcases List.mem_cons.mp hb with rfl | hb
      · split
        · next h => exact .inr (.inr h)
        · exact .inr (.inl rfl)
      · rcases List.mem_cons.mp hb with rfl | hb
        · split
          · exact .inr (.inl rfl)
          · next h => exact .inr (eq_or_keyBelow_of_not h)
        · exact .inl hb
    rcases hround with hq | rfl | hlt
    · exact ih _ b (List.mem_cons_of_mem _ hq)
    · exact ih _ _ List.mem_cons_self
    · rcases ih _ _ List.mem_cons_self with he | hmin
      · exact .inr (he ▸ hlt)
      · exact .inr (keyBelow_trans hmin hlt)

theorem takeMin_eq_none_iff {ns : Nodes} {q : List Nat} : takeMin ns q = none ↔ q = [] := by
  cases q <;> simp [takeMin]

/-- An extraction takes out an element of least key. -/
theorem takeMin_least {ns : Nodes} {q q1 : List Nat} {a : Nat} (h : takeMin ns q = some (a, q1)) :
    ∀ b ∈ q, b = a ∨ keyBelow ns a b = true := by
  cases q with
  | nil => cases h
  | cons c q =>
    simp only [takeMin, Option.some.injEq, Prod.mk.injEq] at h
    obtain ⟨rfl, -⟩ := h
    exact minKey_least ns q c

theorem takeMin_mem {ns : Nodes} {q q1 : List Nat} {a : Nat} (h : takeMin ns q = some (a, q1)) : a ∈ q :=
  (takeMin_perm h).mem_iff.mpr List.mem_cons_self

theorem takeMin_eq_erase {ns : Nodes} {q q1 : List Nat} {a : Nat} (h : takeMin ns q = some (a, q1)) : q1 = q.erase a := by
  cases q with
  | nil => cases h
  | cons c q =>
    simp only [takeMin, Option.some.injEq, Prod.mk.injEq] at h
    obtain ⟨rfl, rfl⟩ := h
    rfl

/-- Settles O26: the loop of `minkey` keeps the least key seen (`takeMin_least`), and what it ends at is erased. -/
theorem takeMinExtractsLeastKey : Obligations.TakeMinExtractsLeastKey := by
  unfold Obligations.TakeMinExtractsLeastKey
  intro ns q
  refine ⟨takeMin_eq_none_iff, fun a q' h => ⟨takeMin_mem h, takeMin_eq_erase h, fun b hb => ?_⟩⟩
  rw [← keyBelow_iff]
  exact takeMin_least h b hb

/-! ### What an extraction depends on -/

/-- The order in which the queue is held does not matter: its least key belongs to one element. -/
theorem takeMin_of_perm {ns : Nodes} {q q1 p : List Nat} {a : Nat} (h : takeMin ns q = some (a, q1)) (hp : q.Perm p) :
    ∃ p1, takeMin ns p = some (a, p1) ∧ q1.Perm p1 := by
  have hne : p ≠ [] := List.ne_nil_of_mem (hp.mem_iff.mp (takeMin_mem h))
  obtain ⟨b, p1, hb⟩ := takeMin_isSome (ns := ns) hne
  obtain rfl : b = a := by
    rcases takeMin_least h b (hp.mem_iff.mpr (takeMin_mem hb)) with he | hab
    · exact he
    · rcases takeMin_least hb a (hp.mem_iff.mp (takeMin_mem h)) with he | hba
      · exact he.symm
      · exact absurd hba (keyBelow_asymm hab)
  exact ⟨p1, hb, (((takeMin_perm h).symm.trans hp).trans (takeMin_perm hb)).cons_inv⟩

theorem minKey_congr {ns ns' : Nodes} {q : List Nat} {m : Nat} (hag : ∀ i ∈ m :: q, nodeAt ns' i = nodeAt ns i) :
    minKey ns' m q = minKey ns m q := by
  induction q generalizing m with
  | nil => rfl
  | cons a q ih =>
    have hkey : keyBelow ns' a m = keyBelow ns a m := by simp [keyBelow, hag]
    rw [minKey, minKey, hkey]
    refine ih fun i hi => hag i ?_
    split at hi <;> (simp only [List.mem_cons] at hi ⊢; tauto)

/-- Only the queued nodes matter. -/
theorem takeMin_congr {ns ns' : Nodes} {q : List Nat} (hag : ∀ i ∈ q, nodeAt ns' i = nodeAt ns i) :
    takeMin ns' q = takeMin ns q := by
  cases q with
  | nil => rfl
  | cons a q => simp only [takeMin, minKey_congr hag]

/-- `a` and `b` are the two elements of least key of the queue `q`, in this order (R402, R403). -/
def TwoLeast (ns : Nodes) (q : List Nat) (a b : Nat) : Prop :=
  ∃ q1 q2, takeMin ns q = some (a, q1) ∧ takeMin ns q1 = some (b, q2)

theorem TwoLeast.mem {ns : Nodes} {q : List Nat} {a b : Nat} (h : TwoLeast ns q a b) : a ∈ q ∧ b ∈ q := by
  obtain ⟨q1, q2, ha, hb⟩ := h
  exact ⟨takeMin_mem ha, (takeMin_perm ha).mem_iff.mpr (List.mem_cons_of_mem a (takeMin_mem hb))⟩

theorem TwoLeast.of_perm {ns : Nodes} {q p : List Nat} {a b : Nat} (h : TwoLeast ns q a b) (hp : q.Perm p) :
    TwoLeast ns p a b := by
  obtain ⟨q1, q2, ha, hb⟩ := h
  obtain ⟨p1, hpa, hp1⟩ := takeMin_of_perm ha hp
  obtain ⟨p2, hpb, -⟩ := takeMin_of_perm hb hp1
  exact ⟨p1, p2, hpa, hpb⟩

theorem TwoLeast.of_agree {ns ns' : Nodes} {q : List Nat} {a b : Nat} (h : TwoLeast ns q a b)
    (hag : ∀ i ∈ q, nodeAt ns' i = nodeAt ns i) : TwoLeast ns' q a b := by
  obtain ⟨q1, q2, ha, hb⟩ := h
  have hsub : ∀ i ∈ q1, i ∈ q := fun i hi => (takeMin_perm ha).mem_iff.mpr (List.mem_cons_of_mem a hi)
  exact ⟨q1, q2, by rw [takeMin_congr hag, ha], by rw [takeMin_congr fun i hi => hag i (hsub i hi), hb]⟩

end Sys2Proof.Machine
end

section
/-! PROOF. The tree of TREE_BUILD (R402 to R407): what each merge keeps of the window and of the queue, and what the loop
leaves. -/

namespace Sys2Proof.Machine

/-! ### The queue before a creation -/

theorem mem_queueBefore {ns : Nodes} {l i j : Nat} :
    j ∈ queueBefore ns l i ↔
      j < i ∧ ∀ k, l ≤ k → k < i → (nodeAt ns k).left.toNat ≠ j ∧ (nodeAt ns k).right.toNat ≠ j := by
  simp only [queueBefore, List.mem_filter, List.mem_range, List.all_eq_true, Bool.or_eq_true, Bool.and_eq_true,
    decide_eq_true_eq]
  refine and_congr_right fun _ => forall_congr' fun k => ?_
  rw [← Nat.not_le (a := l)]
  tauto

theorem queueBefore_nodup (ns : Nodes) (l i : Nat) : (queueBefore ns l i).Nodup := List.nodup_range.filter _

theorem queueBefore_congr {ns ns' : Nodes} {l i : Nat} (hag : ∀ k < i, nodeAt ns' k = nodeAt ns k) :
    queueBefore ns' l i = queueBefore ns l i := by
  refine List.filter_congr fun j _ => ?_
  rw [Bool.eq_iff_iff, List.all_eq_true, List.all_eq_true]
  refine forall₂_congr fun k hk => ?_
  rw [hag k (List.mem_range.mp hk)]

/-! ### An internal node -/

/-- NODE[i] is the internal node that R402 and R403 make of the queue before its creation, its PRIO without overflow. -/
structure MergesTwoLeast (ns : Nodes) (l i : Nat) : Prop where
  inner : (nodeAt ns i).leaf = false
  value : (nodeAt ns i).value = 0#8
  prio : (nodeAt ns i).prio.toNat =
    (nodeAt ns (nodeAt ns i).left.toNat).prio.toNat + (nodeAt ns (nodeAt ns i).right.toNat).prio.toNat
  least : TwoLeast ns (queueBefore ns l i) (nodeAt ns i).left.toNat (nodeAt ns i).right.toNat

theorem MergesTwoLeast.links_lt {ns : Nodes} {l i : Nat} (h : MergesTwoLeast ns l i) :
    (nodeAt ns i).left.toNat < i ∧ (nodeAt ns i).right.toNat < i := by
  obtain ⟨hleft, hright⟩ := h.least.mem
  exact ⟨(mem_queueBefore.mp hleft).1, (mem_queueBefore.mp hright).1⟩

/-- Nodes made later change nothing of it. -/
theorem MergesTwoLeast.of_agree {ns ns' : Nodes} {l i : Nat} (h : MergesTwoLeast ns l i)
    (hag : ∀ k ≤ i, nodeAt ns' k = nodeAt ns k) : MergesTwoLeast ns' l i := by
  obtain ⟨hleft, hright⟩ := h.links_lt
  have hi := hag i (Nat.le_refl i)
  refine ⟨by rw [hi, h.inner], by rw [hi, h.value], ?_, ?_⟩
  · rw [hi, hag _ hleft.le, hag _ hright.le, h.prio]
  · rw [hi, queueBefore_congr fun k hk => hag k (Nat.le_of_lt hk)]
    exact h.least.of_agree fun k hk => hag k (mem_queueBefore.mp hk).1.le

/-! ### The loop -/

/-- R402's loop in the order of its extractions, once for every invariant: what each merge of the two least elements keeps
holds of the window when one node is left in the queue. -/
theorem mergeLoop_least_invariant {P : Nodes → Nat → List Nat → Prop}
    (hstep : ∀ ns next q a q1 b q2, P ns next q → takeMin ns q = some (a, q1) → takeMin ns q1 = some (b, q2) →
      P (setNode ns next (mergedNode ns a b)) (next + 1) (next :: q2))
    (f : Nat) {ns : Nodes} {next : Nat} {q : List Nat} (h : P ns next q) (hq : q ≠ []) (hf : q.length ≤ f) :
    ∃ ns' next' root, mergeLoop f ns q next = (ns', [root]) ∧ P ns' next' [root] := by
  induction f generalizing ns next q with
  | zero => exact absurd (List.eq_nil_of_length_eq_zero (by omega)) hq
  | succ f ih =>
    obtain ⟨a, q1, ha⟩ := takeMin_isSome (ns := ns) hq
    have hlen := (takeMin_perm ha).length_eq
    simp only [List.length_cons] at hlen
    cases hb : takeMin ns q1 with
    | none =>
      obtain rfl := takeMin_eq_none_iff.mp hb
      obtain rfl : q = [a] := List.perm_singleton.mp (takeMin_perm ha)
      exact ⟨ns, next, a, by simp [mergeLoop, ha, hb], h⟩
    | some r =>
      obtain ⟨b, q2⟩ := r
      have hlen2 := (takeMin_perm hb).length_eq
      simp only [List.length_cons] at hlen2
      obtain ⟨ns', next', root, hrun, hend⟩ :=
        ih (hstep ns next q a q1 b q2 h ha hb) (by simp) (by simp only [List.length_cons]; omega)
      exact ⟨ns', next', root, by simpa [mergeLoop, ha, hb] using hrun, hend⟩

/-- The PRIOs of the queued nodes, summed (R407). -/
def queueSum (ns : Nodes) (q : List Nat) : Nat := (q.map fun i => (nodeAt ns i).prio.toNat).sum

theorem queueSum_perm (ns : Nodes) {q p : List Nat} (h : q.Perm p) : queueSum ns q = queueSum ns p :=
  (h.map _).sum_eq

@[simp] theorem queueSum_cons (ns : Nodes) (i : Nat) (q : List Nat) :
    queueSum ns (i :: q) = (nodeAt ns i).prio.toNat + queueSum ns q := by simp [queueSum]

theorem queueSum_congr {ns ns' : Nodes} {q : List Nat} (hag : ∀ i ∈ q, nodeAt ns' i = nodeAt ns i) :
    queueSum ns' q = queueSum ns q :=
  congrArg List.sum (List.map_congr_left fun i hi => by rw [hag i hi])

/-- Where the build of the tree of `f` stands: the leaves are placed, `next` is the first index not yet created, and the
nodes of the queue `q` have no parent yet. -/
structure Building (f : Vector Word 256) (ns : Nodes) (next : Nat) (q : List Nat) : Prop where
  merging : Merging ns next q
  count : next + q.length = 2 * (symsOf f).length
  started : (symsOf f).length ≤ next
  last : next - 1 ∈ q
  leaves : ∀ k < (symsOf f).length, nodeAt ns k = nodeAt (placeLeaves f zeroNodes 0 (symsOf f)) k
  above : ∀ k, next ≤ k → nodeAt ns k = Node.zero
  queue : q.Perm (queueBefore ns (symsOf f).length next)
  merged : ∀ i, (symsOf f).length ≤ i → i < next → MergesTwoLeast ns (symsOf f).length i
  sum : queueSum ns q ≤ Config.wordMax

section
variable {f : Vector Word 256} {ns : Nodes} {next a b : Nat} {q q1 q2 : List Nat}

/-- The links of a merged node are the two indices. -/
theorem mergedNode_links (ha : a < 512) (hb : b < 512) :
    (mergedNode ns a b).left.toNat = a ∧ (mergedNode ns a b).right.toNat = b := by
  simp only [mergedNode, BitVec.toNat_ofNat]
  omega

/-- A merge keeps the sum of the queue, so it cannot overflow (R407). -/
theorem mergedNode_prio (h : queueSum ns q ≤ Config.wordMax) (hq : q.Perm (a :: b :: q2)) :
    (mergedNode ns a b).prio.toNat = (nodeAt ns a).prio.toNat + (nodeAt ns b).prio.toNat := by
  rw [queueSum_perm ns hq, queueSum_cons, queueSum_cons, Config.wordMax] at h
  simp only [mergedNode, BitVec.toNat_add]
  omega

/-- The queue after a merge: the new node is in it, and its two children are not. -/
theorem queueBefore_succ_perm {l : Nat} (hnext : l ≤ next)
    (hmerged : ∀ i, l ≤ i → i < next + 1 → MergesTwoLeast ns l i)
    (hperm : (queueBefore ns l next).Perm ((nodeAt ns next).left.toNat :: (nodeAt ns next).right.toNat :: q2)) :
    (next :: q2).Perm (queueBefore ns l (next + 1)) := by
  have hnodup := hperm.nodup_iff.mp (queueBefore_nodup ns l next)
  simp only [List.nodup_cons, List.mem_cons, not_or] at hnodup
  obtain ⟨⟨-, hleft⟩, hright, hq2⟩ := hnodup
  have hrest : ∀ j, j ∈ q2 ↔
      j ∈ queueBefore ns l next ∧ (nodeAt ns next).left.toNat ≠ j ∧ (nodeAt ns next).right.toNat ≠ j := by
    intro j
    rw [hperm.mem_iff, List.mem_cons, List.mem_cons]
    exact ⟨fun hj => ⟨.inr (.inr hj), fun he => hleft (he ▸ hj), fun he => hright (he ▸ hj)⟩,
      fun ⟨hj, hl, hr⟩ => (hj.resolve_left hl.symm).resolve_left hr.symm⟩
  have hlinks : ∀ k, l ≤ k → k < next + 1 → (nodeAt ns k).left.toNat < next ∧ (nodeAt ns k).right.toNat < next :=
    fun k hlk hk => by
      obtain ⟨hl, hr⟩ := (hmerged k hlk hk).links_lt
      omega
  have hnew : next ∉ q2 := fun hn => Nat.lt_irrefl next (mem_queueBefore.mp ((hrest next).mp hn).1).1
  refine (List.perm_ext_iff_of_nodup (List.nodup_cons.mpr ⟨hnew, hq2⟩) (queueBefore_nodup ns l _)).mpr fun j => ?_
  rw [List.mem_cons, hrest, mem_queueBefore, mem_queueBefore]
  constructor
  · rintro (rfl | ⟨⟨hj, hfree⟩, hfreeNext⟩)
    · exact ⟨Nat.lt_succ_self _, fun k hlk hk => ⟨(hlinks k hlk hk).1.ne, (hlinks k hlk hk).2.ne⟩⟩
    · refine ⟨hj.trans (Nat.lt_succ_self _), fun k hlk hk => ?_⟩
      rcases Nat.lt_succ_iff_lt_or_eq.mp hk with hk | rfl
      · exact hfree k hlk hk
      · exact hfreeNext
  · rintro ⟨hj, hfree⟩
    rcases Nat.lt_succ_iff_lt_or_eq.mp hj with hj | rfl
    · exact .inr ⟨⟨hj, fun k hlk hk => hfree k hlk (hk.trans (Nat.lt_succ_self _))⟩,
        hfree next hnext (Nat.lt_succ_self _)⟩
    · exact .inl rfl

/-- The node that a merge of the two least elements writes is one (R402, R403). -/
theorem mergesTwoLeast_mergedNode {ns' : Nodes} {l : Nat} (hnext : next < 512)
    (hself : nodeAt ns' next = mergedNode ns a b) (hag : ∀ k < next, nodeAt ns' k = nodeAt ns k)
    (hprio : (mergedNode ns a b).prio.toNat = (nodeAt ns a).prio.toNat + (nodeAt ns b).prio.toNat)
    (hleast : TwoLeast ns (queueBefore ns l next) a b) : MergesTwoLeast ns' l next := by
  obtain ⟨hamem, hbmem⟩ := hleast.mem
  have ha := (mem_queueBefore.mp hamem).1
  have hb := (mem_queueBefore.mp hbmem).1
  obtain ⟨hleft, hright⟩ := mergedNode_links (ns := ns) (ha.trans hnext) (hb.trans hnext)
  refine ⟨by rw [hself]; rfl, by rw [hself]; rfl, ?_, ?_⟩
  · rw [hself, hleft, hright, hag a ha, hag b hb, hprio]
  · rw [hself, hleft, hright, queueBefore_congr hag]
    exact hleast.of_agree fun i hi => hag i (mem_queueBefore.mp hi).1

/-- One merge of the two least elements keeps all of it. -/
theorem Building.merge (h : Building f ns next q) (ha : takeMin ns q = some (a, q1))
    (hb : takeMin ns q1 = some (b, q2)) :
    Building f (setNode ns next (mergedNode ns a b)) (next + 1) (next :: q2) := by
  have hperm : q.Perm (a :: b :: q2) := (takeMin_perm ha).trans ((takeMin_perm hb).cons a)
  have hlen := hperm.length_eq
  have hfits := h.merging.fits
  have hcount := h.count
  have hstarted := h.started
  simp only [List.length_cons] at hlen
  have hself : nodeAt (setNode ns next (mergedNode ns a b)) next = mergedNode ns a b :=
    nodeAt_setNode_self _ _ (by omega)
  have hag : ∀ k < next, nodeAt (setNode ns next (mergedNode ns a b)) k = nodeAt ns k :=
    fun k hk => nodeAt_setNode_ne _ _ hk.ne
  have hprio := mergedNode_prio h.sum hperm
  have hmerged : ∀ i, (symsOf f).length ≤ i → i < next + 1 →
      MergesTwoLeast (setNode ns next (mergedNode ns a b)) (symsOf f).length i := by
    intro i hi hin
    rcases Nat.lt_succ_iff_lt_or_eq.mp hin with hin | rfl
    · exact (h.merged i hi hin).of_agree fun k hk => hag k (by omega)
    · exact mergesTwoLeast_mergedNode (by omega) hself hag hprio (TwoLeast.of_perm ⟨q1, q2, ha, hb⟩ h.queue)
  have hlt : ∀ i ∈ a :: b :: q2, i < next := fun i hi => h.merging.queued i (hperm.mem_iff.mpr hi)
  have halt := hlt a (by simp)
  have hblt := hlt b (by simp)
  exact {
    merging := (merge_step h.merging hperm).1
    count := by simp only [List.length_cons]; omega
    started := by omega
    last := by simp
    leaves := fun k hk => by rw [hag k (by omega), h.leaves k hk]
    above := fun k hk => by rw [nodeAt_setNode_ne _ _ (by omega), h.above k (by omega)]
    queue := by
      obtain ⟨hleft, hright⟩ := mergedNode_links (ns := ns) (a := a) (b := b) (by omega) (by omega)
      refine queueBefore_succ_perm hstarted hmerged ?_
      rw [hself, hleft, hright, queueBefore_congr hag]
      exact h.queue.symm.trans hperm
    merged := hmerged
    sum := by
      have hsum := h.sum
      rw [queueSum_perm ns hperm, queueSum_cons, queueSum_cons, ← Nat.add_assoc] at hsum
      rwa [queueSum_cons, hself, hprio, queueSum_congr fun i hi => hag i (hlt i (by simp [hi]))] }

end

/-! ### The start of the loop -/

theorem nodeAt_placeLeaves_above (f : Vector Word 256) (bs : List Byte) (ns : Nodes) {k j : Nat}
    (h : k + bs.length ≤ j) : nodeAt (placeLeaves f ns k bs) j = nodeAt ns j := by
  induction bs generalizing ns k with
  | nil => rfl
  | cons b bs ih =>
    rw [List.length_cons] at h
    rw [placeLeaves, ih _ (by omega), nodeAt_setNode_ne _ _ (by omega)]

/-- R402: NODE[k] is the leaf of the k-th byte value counted. -/
theorem nodeAt_leaves {f : Vector Word 256} {k : Nat} {b : Byte} (h : (symsOf f)[k]? = some b) :
    nodeAt (placeLeaves f zeroNodes 0 (symsOf f)) k =
      { prio := atByte f b, leaf := true, value := b, left := 0#9, right := 0#9 } := by
  have hmax := symsOf_length_le f
  rw [← nodeAt_placeLeaves f (symsOf f) zeroNodes (k := 0) (by omega) h, Nat.zero_add]

/-- The leaves' PRIOs are a part of the FREQ entries. -/
theorem queueSum_leaves_le (f : Vector Word 256) :
    queueSum (placeLeaves f zeroNodes 0 (symsOf f)) (List.range (symsOf f).length) ≤ freqSum f := by
  have hprios : (List.range (symsOf f).length).map
      (fun i => (nodeAt (placeLeaves f zeroNodes 0 (symsOf f)) i).prio.toNat) =
        (symsOf f).map fun b => (atByte f b).toNat := by
    refine List.ext_getElem (by simp) fun i h1 h2 => ?_
    rw [List.length_map] at h2
    rw [List.getElem_map, List.getElem_map, List.getElem_range, nodeAt_leaves (List.getElem?_eq_getElem h2)]
  rw [queueSum, hprios]
  exact List.Sublist.sum_le_sum (List.filter_sublist.map _) fun _ _ => Nat.zero_le _

theorem building_leaves {f : Vector Word 256} (h : symsOf f ≠ []) (hsum : freqSum f ≤ Config.wordMax) :
    Building f (placeLeaves f zeroNodes 0 (symsOf f)) (symsOf f).length (List.range (symsOf f).length) where
  merging := (placeLeaves_merging f _ (symsOf_length_le f)).1
  count := by rw [List.length_range]; omega
  started := Nat.le_refl _
  last := List.mem_range.mpr (Nat.sub_lt (List.length_pos_iff.mpr h) Nat.one_pos)
  leaves := fun _ _ => rfl
  above := fun k hk => by rw [nodeAt_placeLeaves_above _ _ _ (by omega), nodeAt_zeroNodes]
  queue := by
    refine (List.perm_ext_iff_of_nodup List.nodup_range (queueBefore_nodup _ _ _)).mpr fun j => ?_
    rw [mem_queueBefore, List.mem_range]
    exact ⟨fun hj => ⟨hj, fun k hlk hk => absurd hk (Nat.not_lt.mpr hlk)⟩, And.left⟩
  merged := fun i hi hin => absurd hin (Nat.not_lt.mpr hi)
  sum := (queueSum_leaves_le f).trans hsum

/-! ### What the build leaves -/

/-- R402, R404: the build ends with `2 * L - 1` nodes created, the last of them ROOT. -/
theorem buildTree_building {f : Vector Word 256} (h : symsOf f ≠ []) (hsum : freqSum f ≤ Config.wordMax) :
    Building f (buildTree f).1 (2 * (symsOf f).length - 1) [(buildTree f).2] ∧
      (buildTree f).2 = 2 * (symsOf f).length - 2 := by
  obtain ⟨ns, next, root, hrun, hend⟩ := mergeLoop_least_invariant (P := Building f)
    (fun _ _ _ _ _ _ _ hP ha hb => hP.merge ha hb) (symsOf f).length (building_leaves h hsum) (by simpa using h)
    (by simp)
  have hbuild : buildTree f = (ns, root) := by simp [buildTree, hrun]
  have hcount := hend.count
  have hlast := hend.last
  rw [List.length_singleton] at hcount
  rw [List.mem_singleton] at hlast
  obtain rfl : next = 2 * (symsOf f).length - 1 := by omega
  rw [hbuild]
  exact ⟨hend, by dsimp only; omega⟩

/-- Settles O27: the counts and ROOT are those of `buildTree_building`, which keeps the leaves as they were placed
(`nodeAt_leaves`) and creates nothing past them; the rest is what the rule does not name (`exec_keepsBut`). -/
theorem treeBuildCompletes : Obligations.TreeBuildCompletes := by
  unfold Obligations.TreeBuildCompletes
  intro s hsome hfits
  have hsyms : symsOf s.freq ≠ [] := fun hnil => by
    obtain ⟨b, hb⟩ := hsome
    exact hb (symsOf_eq_nil_iff.mp hnil b)
  have hexec : exec .treeBuild s =
      .next (((buildBody s).setResultLen 0).complete (buildBody s).status.completed) := by
    rw [exec_treeBuild]
    rcases treeBuildBody_cases s with ⟨hnil, -⟩ | ⟨-, hover, -⟩ | ⟨-, -, hbody⟩
    · exact absurd hnil hsyms
    · exact absurd hfits (Nat.not_le.mpr hover)
    · rw [hbody, finish_done]
      rfl
  have hkeeps := exec_keepsBut hexec
  obtain ⟨hbuilt, hroot⟩ := buildTree_building hsyms hfits
  have hmax := symsOf_length_le s.freq
  refine ⟨_, hexec, ⟨rfl, rfl, rfl, rfl, rfl⟩, rfl, rfl, rfl, ?_, ?_, ?_, fun k b hk => ?_, hbuilt.above, hkeeps.args,
    hkeeps.freq rfl, hkeeps.codes rfl, hkeeps.orig rfl, hkeeps.lzw rfl, fun _ => rfl⟩
  · simp only [buildBody, complete_leafCount, setResultLen_leafCount, setTree_leafCount, BitVec.toNat_ofNat]
    omega
  · simp only [buildBody, complete_nodeCount, setResultLen_nodeCount, setTree_nodeCount, BitVec.toNat_ofNat]
    omega
  · simp only [buildBody, complete_root, setResultLen_root, setTree_root, BitVec.toNat_ofNat, hroot]
    omega
  · obtain ⟨hlt, -⟩ := List.getElem?_eq_some_iff.mp hk
    exact (hbuilt.leaves k hlt).trans (nodeAt_leaves hk)

/-- Settles O28: every internal node of the build is a merge of the two least (`Building.merged`). -/
theorem treeBuildMergesTheTwoLeast : Obligations.TreeBuildMergesTheTwoLeast := by
  unfold Obligations.TreeBuildMergesTheTwoLeast
  intro s t h h0 i hi hin
  obtain ⟨hsyms, hsum, rfl⟩ := treeBuild_of_completed h h0
  have hmerged := (buildTree_building hsyms hsum).1.merged i hi hin
  exact ⟨hmerged.inner, hmerged.value, hmerged.prio, hmerged.least⟩

/-! ### The tree as a whole (R405, R406) -/

/-- R406: on the way to a leaf, each internal node leaves at least one leaf aside. -/
theorem path_length_lt {t : Tree} {b : Byte} {p : Bits} (h : t.path b = some p) : p.length < t.leaves.length := by
  induction t generalizing p with
  | leaf v =>
    rw [Tree.path] at h
    split at h
    · cases h
      exact Nat.one_pos
    · cases h
  | node l r ihl ihr =>
    have hl := leaves_length_pos l
    have hr := leaves_length_pos r
    rw [Tree.leaves, List.length_append]
    rw [Tree.path] at h
    split at h
    · next p1 h1 =>
      cases h
      have := ihl h1
      rw [List.length_cons]
      omega
    · split at h
      · next p1 h1 =>
        cases h
        have := ihr h1
        rw [List.length_cons]
        omega
      · cases h

/-- R402: the current tree after the build has the byte values counted as its leaves. -/
theorem buildBody_leaves {s : State} (h : symsOf s.freq ≠ []) :
    ∃ t, (buildBody s).tree = some t ∧ t.leaves.Perm (symsOf s.freq) := by
  obtain ⟨hroot, t, ht, hperm⟩ := buildTree_leaves h
  refine ⟨t, ?_, hperm⟩
  rwa [State.tree, buildBody, setTree_nodes, setTree_root, BitVec.toNat_ofNat, Nat.mod_eq_of_lt (by omega)]

/-- Settles O29: the build is valid (`buildTree_valid`), its leaves are the byte values counted (`buildBody_leaves`), and
its paths are short as those of any full tree (`path_length_lt`). -/
theorem treeBuildYieldsFullTree : Obligations.TreeBuildYieldsFullTree := by
  unfold Obligations.TreeBuildYieldsFullTree
  intro s t h h0
  obtain ⟨hsyms, -, rfl⟩ := treeBuild_of_completed h h0
  obtain ⟨tr, htree, hperm⟩ := buildBody_leaves hsyms
  refine ⟨setTree_treeOk (buildTree_valid hsyms) s, tr, htree, hperm.nodup_iff.mpr (symsOf_nodup s.freq), ?_,
    fun b => by rw [hperm.mem_iff, mem_symsOf], fun _ _ => path_length_lt⟩
  rw [hperm.length_eq]
  exact symsOf_length_le s.freq

end Sys2Proof.Machine
end

section
/-! PROOF. CODE_GEN (R500 to R504): the codes of a tree, the table that records them, and what the command leaves. -/

namespace Sys2Proof.Machine

/-! ### The paths of a tree (R500) -/

theorem path_node (l r : Tree) (b : Byte) :
    (Tree.node l r).path b = ((l.path b).map (false :: ·)).or ((r.path b).map (true :: ·)) := by
  rw [Tree.path]
  cases l.path b <;> cases r.path b <;> rfl

theorem path_eq_none_iff {t : Tree} {b : Byte} : t.path b = none ↔ b ∉ t.leaves := by
  induction t with
  | leaf v => simp [Tree.path, Tree.leaves, eq_comm]
  | node l r ihl ihr => simp [path_node, Tree.leaves, ihl, ihr]

theorem path_of_mem {t : Tree} {b : Byte} (h : b ∈ t.leaves) : ∃ p, t.path b = some p :=
  Option.ne_none_iff_exists'.mp fun hnone => path_eq_none_iff.mp hnone h

theorem mem_of_path {t : Tree} {b : Byte} {p : Bits} (h : t.path b = some p) : b ∈ t.leaves :=
  not_not.mp fun hno => Option.some_ne_none p (h.symm.trans (path_eq_none_iff.mpr hno))

/-- A path of a tree goes on in one of its two parts. -/
theorem path_node_cases {l r : Tree} {b : Byte} {p : Bits} (h : (Tree.node l r).path b = some p) :
    (∃ q, l.path b = some q ∧ p = false :: q) ∨ (∃ q, b ∉ l.leaves ∧ r.path b = some q ∧ p = true :: q) := by
  rw [path_node, Option.or_eq_some_iff, Option.map_eq_none_iff, path_eq_none_iff] at h
  rcases h with hl | ⟨hl, hr⟩
  · obtain ⟨q, hq, rfl⟩ := Option.map_eq_some_iff.mp hl
    exact .inl ⟨q, hq, rfl⟩
  · obtain ⟨q, hq, rfl⟩ := Option.map_eq_some_iff.mp hr
    exact .inr ⟨q, hl, hq, rfl⟩

theorem path_node_left {l r : Tree} {b : Byte} (h : b ∈ l.leaves) :
    (Tree.node l r).path b = (l.path b).map (false :: ·) := by
  obtain ⟨p, hp⟩ := path_of_mem h
  rw [path_node, hp, Option.map_some, Option.some_or]

theorem path_node_right {l r : Tree} {b : Byte} (h : b ∉ l.leaves) :
    (Tree.node l r).path b = (r.path b).map (true :: ·) := by
  rw [path_node, path_eq_none_iff.mpr h, Option.map_none, Option.none_or]

/-- R503: no leaf lies on the way to another one. -/
theorem eq_of_path_prefix {t : Tree} {a b : Byte} {p q : Bits} (ha : t.path a = some p) (hb : t.path b = some q)
    (h : p <+: q) : a = b := by
  induction t generalizing p q with
  | leaf v =>
    simp only [Tree.path, Option.ite_none_right_eq_some] at ha hb
    exact ha.1.symm.trans hb.1
  | node l r ihl ihr =>
    rcases path_node_cases ha with ⟨p', hp, rfl⟩ | ⟨p', -, hp, rfl⟩ <;>
      rcases path_node_cases hb with ⟨q', hq, rfl⟩ | ⟨q', -, hq, rfl⟩ <;>
      rw [List.cons_prefix_cons] at h
    · exact ihl hp hq h.2
    · exact absurd h.1 Bool.false_ne_true
    · exact absurd h.1.symm Bool.false_ne_true
    · exact ihr hp hq h.2

/-- The paths of one part of a tree are one bit longer in the whole. -/
theorem pathWeights_part {t u : Tree} {side : Bool} (h : ∀ b ∈ u.leaves, t.path b = (u.path b).map (side :: ·))
    (n : Nat) :
    (u.leaves.map fun b => 2 ^ (n + 1 - ((t.path b).getD []).length)) =
      u.leaves.map fun b => 2 ^ (n - ((u.path b).getD []).length) := by
  refine List.map_congr_left fun b hb => ?_
  obtain ⟨p, hp⟩ := path_of_mem hb
  simp [h b hb, hp]

/-- R504: the paths of a tree fill it. Each part of a node holds half of the sum. -/
theorem sum_paths {t : Tree} {n : Nat} (hnodup : t.leaves.Nodup) (hn : t.leaves.length ≤ n + 1) :
    (t.leaves.map fun b => 2 ^ (n - ((t.path b).getD []).length)).sum = 2 ^ n := by
  induction t generalizing n with
  | leaf v => simp [Tree.leaves, Tree.path]
  | node l r ihl ihr =>
    obtain ⟨hl, hr, hdisj⟩ := List.nodup_append'.mp hnodup
    have hlpos := leaves_length_pos l
    have hrpos := leaves_length_pos r
    simp only [Tree.leaves, List.length_append] at hn
    obtain ⟨m, rfl⟩ := Nat.exists_eq_add_of_le' (show 1 ≤ n by omega)
    have hleft := pathWeights_part (t := .node l r) (u := l) (fun _ hb => path_node_left hb) m
    have hright := pathWeights_part (t := .node l r) (u := r) (fun _ hb => path_node_right fun hbl => hdisj hbl hb) m
    rw [Tree.leaves, List.map_append, List.sum_append, hleft, hright, ihl hl (by omega), ihr hr (by omega), pow_succ,
      Nat.mul_two]

/-! ### The codes of a tree (R500, R502) -/

theorem code_eq_none_iff {t : Tree} {b : Byte} : t.code b = none ↔ b ∉ t.leaves := by
  cases t with
  | leaf v => simp [Tree.code, Tree.leaves, eq_comm]
  | node l r => exact path_eq_none_iff

theorem code_of_mem {t : Tree} {b : Byte} (h : b ∈ t.leaves) : ∃ c, t.code b = some c :=
  Option.ne_none_iff_exists'.mp fun hnone => code_eq_none_iff.mp hnone h

/-- A code has 1 to 255 bits. -/
theorem code_length {t : Tree} {b : Byte} {c : Bits} (hl : t.leaves.length ≤ 256) (h : t.code b = some c) :
    1 ≤ c.length ∧ c.length ≤ 255 := by
  cases t with
  | leaf v =>
    simp only [Tree.code, Option.ite_none_right_eq_some, Option.some.injEq] at h
    obtain ⟨-, rfl⟩ := h
    decide
  | node l r =>
    have hlt := path_length_lt h
    refine ⟨?_, by omega⟩
    rcases path_node_cases h with ⟨q, -, rfl⟩ | ⟨q, -, -, rfl⟩ <;> simp

theorem code_getD_length_le {t : Tree} (hl : t.leaves.length ≤ 256) (b : Byte) :
    ((t.code b).getD []).length ≤ 255 := by
  cases h : t.code b with
  | none => simp
  | some c => exact (code_length hl h).2

/-- R503, the one-leaf tree included. -/
theorem eq_of_code_prefix {t : Tree} {a b : Byte} {c d : Bits} (ha : t.code a = some c) (hb : t.code b = some d)
    (h : c <+: d) : a = b := by
  cases t with
  | leaf v =>
    simp only [Tree.code, Option.ite_none_right_eq_some] at ha hb
    exact ha.1.symm.trans hb.1
  | node l r => exact eq_of_path_prefix ha hb h

/-- R504: the codes of a tree fill it, and the one code of a one-leaf tree half of it. -/
theorem sum_codes {t : Tree} (h : t.legal) :
    (t.leaves.map fun b => 2 ^ (255 - ((t.code b).getD []).length)).sum =
      if t.leaves.length = 1 then 2 ^ 254 else 2 ^ 255 := by
  obtain ⟨hmax, hnodup⟩ := h
  cases t with
  | leaf v => simp [Tree.leaves, Tree.code]
  | node l r =>
    have hmany : (Tree.node l r).leaves.length ≠ 1 := fun h1 => by
      simpa [Tree.isLeaf] using (isLeaf_iff_leaves_length (.node l r)).mpr h1
    rw [if_neg hmany]
    exact sum_paths hnodup hmax

/-! ### The code table (R76, R77, R501) -/

/-- The entries of byte value `b` record the code `p`. -/
def CodeTable.Holds (t : CodeTable) (b : Byte) (p : Bits) : Prop :=
  atByte t.len b = BitVec.ofNat 8 p.length ∧ atByte t.bits b = BitVec.ofNat 256 (uint p)

theorem zeroTable_holds (b : Byte) : zeroTable.Holds b [] := ⟨zeroTable_len b, zeroTable_bits b⟩

theorem put_holds_self (t : CodeTable) (v : Byte) (p : Bits) : (t.put v p).Holds v p := by
  simp [CodeTable.Holds, put_entry]

theorem put_holds_ne (t : CodeTable) {v b : Byte} (p q : Bits) (h : b ≠ v) :
    (t.put v p).Holds b q ↔ t.Holds b q := by
  simp [CodeTable.Holds, put_entry, h]

/-- The walk leaves the values without a leaf alone. -/
theorem walk_holds_of_not_mem {t : Tree} {b : Byte} (h : b ∉ t.leaves) (p q : Bits) (c : CodeTable) :
    (t.walk p c).Holds b q ↔ c.Holds b q := by
  induction t generalizing p c with
  | leaf v => exact put_holds_ne c p q (by simpa [Tree.leaves] using h)
  | node l r ihl ihr =>
    rw [Tree.leaves, List.mem_append, not_or] at h
    rw [Tree.walk, ihr h.2, ihl h.1]

/-- The walk records at each leaf the path that led to it. -/
theorem walk_holds_path {t : Tree} (hnodup : t.leaves.Nodup) {b : Byte} {q : Bits} (h : t.path b = some q) (p : Bits)
    (c : CodeTable) : (t.walk p c).Holds b (p ++ q) := by
  induction t generalizing p q c with
  | leaf v =>
    simp only [Tree.path, Option.ite_none_right_eq_some, Option.some.injEq] at h
    obtain ⟨rfl, rfl⟩ := h
    simpa [Tree.walk] using put_holds_self c v p
  | node l r ihl ihr =>
    obtain ⟨hl, hr, hdisj⟩ := List.nodup_append'.mp hnodup
    rw [Tree.walk]
    rcases path_node_cases h with ⟨q', hq, rfl⟩ | ⟨q', -, hq, rfl⟩
    · rw [walk_holds_of_not_mem fun hbr => hdisj (mem_of_path hq) hbr]
      simpa using ihl hl hq (p ++ [false]) c
    · simpa using ihr hr hq (p ++ [true]) (l.walk (p ++ [false]) c)

/-- R501, R502: the table of a tree records the code of every byte value, and no bits where it has none. -/
theorem codeTable_holds {t : Tree} (hnodup : t.leaves.Nodup) (b : Byte) : t.codeTable.Holds b ((t.code b).getD []) := by
  cases t with
  | leaf v =>
    rw [Tree.codeTable, Tree.code]
    by_cases hb : v = b
    · rw [if_pos hb, ← hb]
      exact put_holds_self zeroTable v [false]
    · rw [if_neg hb]
      exact (put_holds_ne zeroTable _ _ (Ne.symm hb)).mpr (zeroTable_holds b)
  | node l r =>
    rw [Tree.codeTable, Tree.code]
    cases hp : (Tree.node l r).path b with
    | some p => exact walk_holds_path hnodup hp [] zeroTable
    | none => exact (walk_holds_of_not_mem (path_eq_none_iff.mp hp) [] [] zeroTable).mpr (zeroTable_holds b)

section
variable {t : Tree} (h : t.legal) (b : Byte)
include h

/-- R76: a length fits its entry. -/
theorem codeTable_len_toNat : (atByte t.codeTable.len b).toNat = ((t.code b).getD []).length := by
  have hle := code_getD_length_le h.1 b
  rw [(codeTable_holds h.2 b).1, BitVec.toNat_ofNat, Nat.mod_eq_of_lt (by omega)]

/-- R77: a number fits its entry. -/
theorem codeTable_bits_toNat : (atByte t.codeTable.bits b).toNat = uint ((t.code b).getD []) := by
  have hle := code_getD_length_le h.1 b
  have hpow : 2 ^ ((t.code b).getD []).length ≤ 2 ^ 256 := Nat.pow_le_pow_right Nat.two_pos (by omega)
  have hlt := (uint_lt ((t.code b).getD [])).trans_le hpow
  rw [(codeTable_holds h.2 b).2, BitVec.toNat_ofNat, Nat.mod_eq_of_lt hlt]

/-- R700: the code read back from the table is the tree's. -/
theorem codeOf_codeTable : codeOf t.codeTable.len t.codeTable.bits b = (t.code b).getD [] := by
  rw [codeOf, codeTable_len_toNat h, codeTable_bits_toNat h, bin_uint]

theorem codeTable_len_ne_zero_iff : atByte t.codeTable.len b ≠ 0#8 ↔ b ∈ t.leaves := by
  rw [← BitVec.toNat_ne_iff_ne, codeTable_len_toNat h, ← not_iff_not, not_not, ← code_eq_none_iff]
  cases hc : t.code b with
  | none => simp
  | some c =>
    have := (code_length h.1 hc).1
    simp only [Option.getD_some, BitVec.toNat_zero, reduceCtorEq, iff_false]
    omega

/-- R504: what the window's entry adds to the sum is what the tree's leaf adds. -/
theorem codeTable_weight :
    (if atByte t.codeTable.len b = 0#8 then 0 else 2 ^ (255 - (atByte t.codeTable.len b).toNat)) =
      t.leaves.count b * 2 ^ (255 - ((t.code b).getD []).length) := by
  have hcoded := codeTable_len_ne_zero_iff h b
  rw [← codeTable_len_toNat h b]
  by_cases hb : b ∈ t.leaves
  · rw [if_neg (hcoded.mpr hb), List.count_eq_one_of_mem h.2 hb, Nat.one_mul]
  · rw [if_pos (not_not.mp (mt hcoded.mp hb)), List.count_eq_zero_of_not_mem hb, Nat.zero_mul]

end

/-! ### The command (R501) -/

/-- R81: the current tree of a valid window. -/
theorem tree_of_treeInv {s : State} (hinv : s.TreeInv) (hvalid : s.status.treeValid = true) :
    ∃ tr, s.tree = some tr ∧ tr.legal ∧ tr.leaves.length = s.leafCount.toNat := by
  have hok := hinv hvalid
  obtain ⟨tr, htr⟩ := tree_isSome hok
  have hlen := tree_leaves_length hok htr
  obtain ⟨hmax, -, -⟩ := treeValid_bounds hok
  refine ⟨tr, htr, ⟨hlen.trans_le hmax, ?_⟩, hlen⟩
  unfold State.tree at htr
  simp only [State.treeOk, treeValid, htr, Bool.and_eq_true, decide_eq_true_eq] at hok
  obtain ⟨-, -, hnodup⟩ := hok
  exact hnodup

/-- `s` with the code table of the tree `tr` and RESULT_LEN 0: what CODE_GEN leaves but for its completion. -/
def State.coded (tr : Tree) (s : State) : State := (s.setCodes tr.codeTable.len tr.codeTable.bits).setResultLen 0

theorem exec_codeGen {s : State} {tr : Tree} (hvalid : s.status.treeValid = true) (htr : s.tree = some tr) :
    exec .codeGen s = .next ((s.coded tr).complete (s.coded tr).status.completed) := by
  rw [exec_of_no_window rfl, bodyOf, codeGenBody, if_neg (by simp [hvalid]), codesBody_of_tree htr, andThen_done,
    finish_done]
  rfl

/-- CODE_GEN on a valid tree leaves the tree's code table in the windows. -/
theorem codeGen_leaves_table {s t : State} (hinv : s.TreeInv) (hvalid : s.status.treeValid = true)
    (h : exec .codeGen s = .next t) :
    ∃ tr : Tree, tr.legal ∧ tr.leaves.length = s.leafCount.toNat ∧ t.codeLen = tr.codeTable.len ∧
      t.codeBits = tr.codeTable.bits := by
  obtain ⟨tr, htr, hlegal, hlen⟩ := tree_of_treeInv hinv hvalid
  rw [exec_codeGen hvalid htr] at h
  cases h
  exact ⟨tr, hlegal, hlen, rfl, rfl⟩

/-- Settles O31: the pseudocode ends with the table of the current tree (`exec_codeGen`), whose entries are the tree's
codes (`codeTable_len_toNat`, `codeTable_bits_toNat`); the rest is what the rule does not name (`exec_keepsBut`). -/
theorem codeGenCompletes : Obligations.CodeGenCompletes := by
  unfold Obligations.CodeGenCompletes
  intro s hinv hvalid
  obtain ⟨tr, htr, hlegal, -⟩ := tree_of_treeInv hinv hvalid
  have hexec := exec_codeGen hvalid htr
  have hkeeps := exec_keepsBut hexec
  obtain ⟨htree, hflag⟩ := hkeeps.tree rfl
  exact ⟨_, tr, htr, hexec, ⟨rfl, rfl, rfl, rfl, rfl⟩, rfl, hflag.trans hvalid, rfl,
    fun b => ⟨codeTable_len_toNat hlegal b, codeTable_bits_toNat hlegal b⟩, hkeeps.args, hkeeps.freq rfl, htree,
    hkeeps.orig rfl, hkeeps.lzw rfl, fun _ => rfl⟩

/-- Settles O32: a code read back from the windows is the tree's (`codeOf_codeTable`), and no code of a tree begins
another (`eq_of_code_prefix`). -/
theorem codesArePrefixFree : Obligations.CodesArePrefixFree := by
  unfold Obligations.CodesArePrefixFree
  intro s t hinv hvalid hexec a b hne ha hb hprefix
  obtain ⟨tr, hlegal, -, hlen, hbits⟩ := codeGen_leaves_table hinv hvalid hexec
  rw [hlen, codeTable_len_ne_zero_iff hlegal] at ha hb
  obtain ⟨c, hc⟩ := code_of_mem ha
  obtain ⟨d, hd⟩ := code_of_mem hb
  rw [hlen, hbits, codeOf_codeTable hlegal, codeOf_codeTable hlegal, hc, hd] at hprefix
  exact hne (eq_of_code_prefix hc hd hprefix)

/-- Settles O33: the coded byte values are the leaves of the tree (`codeTable_len_ne_zero_iff`), so that the sum over the
window is the sum over the leaves (`codeTable_weight`, `sum_codes`), and their number is that of the leaves. -/
theorem codeLengthsFillTheTree : Obligations.CodeLengthsFillTheTree := by
  unfold Obligations.CodeLengthsFillTheTree
  intro s t hinv hvalid hexec
  obtain ⟨tr, hlegal, hcount, hlen, -⟩ := codeGen_leaves_table hinv hvalid hexec
  rw [hlen, ← hcount]
  refine ⟨?_, ?_⟩
  · simp only [codeTable_weight hlegal]
    rw [sum_count_mul, sum_codes hlegal]
  · refine ((List.perm_ext_iff_of_nodup (allBytes_nodup.filter _) hlegal.2).mpr fun b => ?_).length_eq
    rw [List.mem_filter, decide_eq_true_eq, codeTable_len_ne_zero_iff hlegal]
    exact and_iff_right (mem_allBytes b)

end Sys2Proof.Machine
end

section
/-! PROOF. The serialization of a tree (R206): its bits determine the tree (R602), and its bytes are the leaf count,
those bits and zeros up to the next byte. -/

namespace Sys2Proof.Machine

/-! ### The preorder traversal (R206) -/

theorem bin_byte_injective {v w : Byte} (h : bin 8 v.toNat = bin 8 w.toNat) : v = w := by
  rw [← byteOf_bin v, h, byteOf_bin]

/-- R602: a traversal tells where it ends, so that whatever follows it, it stands for one tree. -/
theorem pre_append_injective {t u : Tree} {x y : Bits} (h : t.pre ++ x = u.pre ++ y) : t = u ∧ x = y := by
  induction t generalizing u x y with
  | leaf v =>
    cases u with
    | leaf w =>
      obtain ⟨hbin, hrest⟩ := List.append_inj (List.cons.inj h).2 (by simp)
      exact ⟨congrArg Tree.leaf (bin_byte_injective hbin), hrest⟩
    | node l r => exact absurd (List.cons.inj h).1.symm Bool.false_ne_true
  | node l r ihl ihr =>
    cases u with
    | leaf w => exact absurd (List.cons.inj h).1 Bool.false_ne_true
    | node l' r' =>
      have htail : l.pre ++ r.pre ++ x = l'.pre ++ r'.pre ++ y := (List.cons.inj h).2
      rw [List.append_assoc, List.append_assoc] at htail
      obtain ⟨rfl, hright⟩ := ihl htail
      obtain ⟨rfl, hrest⟩ := ihr hright
      exact ⟨rfl, hrest⟩

/-! ### The bytes of a serialization (R206, R207) -/

theorem be16_length (n : Nat) : (be16 n).length = 2 := rfl

theorem beNat_be16 {n : Nat} (h : n < 2 ^ 16) : beNat (be16 n) = n := by
  simp only [beNat, be16, List.foldl_cons, List.foldl_nil, BitVec.toNat_ofNat]
  omega

theorem be16_beNat {bs : List Byte} (h : bs.length = 2) : be16 (beNat bs) = bs := by
  match bs, h with
  | [b1, b0], _ =>
    have h0 := b0.isLt
    have h1 := b1.isLt
    simp only [be16, beNat, List.foldl_cons, List.foldl_nil, List.cons.injEq, and_true]
    refine ⟨BitVec.eq_of_toNat_eq ?_, BitVec.eq_of_toNat_eq ?_⟩ <;> rw [BitVec.toNat_ofNat] <;> omega

/-- The traversal bytes of a serialization hold the traversal and the padding. -/
theorem bitsOf_traversal (t : Tree) :
    bitsOf (bytesOf (pad8 t.pre)) = t.pre ++ List.replicate (padCount t.pre.length) false := by
  refine bitsOf_bytesOf ?_
  rw [pad8, List.length_append, List.length_replicate]
  exact (padCount_spec _).1

/-- Bytes that begin with the traversal of a tree and go on with zeros are its traversal bytes. -/
theorem eq_traversal_of_bits {t : Tree} {bs : List Byte} {z : Bits} (hlen : bs.length = treeBytes t.leaves.length)
    (hbits : bitsOf bs = t.pre ++ z) (hz : true ∉ z) : bs = bytesOf (pad8 t.pre) := by
  have hpre := pre_length t
  have hpad := padCount_spec t.pre.length
  have htotal := congrArg List.length hbits
  rw [bitsOf_length, hlen, List.length_append, treeBytes, ceilDiv] at htotal
  have hzeros : z = List.replicate (padCount t.pre.length) false := by
    refine List.eq_replicate_iff.mpr ⟨by omega, fun b hb => ?_⟩
    exact Bool.eq_false_of_not_eq_true fun h => hz (h ▸ hb)
  rw [← bytesOf_bitsOf bs, hbits, hzeros, pad8]

/-- Settles O37: equal bytes after the leaf count hold equal bits, and those begin with the traversals
(`pre_append_injective`). -/
theorem serializationDeterminesTree : Obligations.SerializationDeterminesTree := by
  unfold Obligations.SerializationDeterminesTree
  refine fun t u => ⟨fun h => ?_, fun h => by rw [h]⟩
  have hbytes := List.append_inj_right h (by rw [be16_length, be16_length])
  have hbits := congrArg bitsOf hbytes
  rw [bitsOf_traversal, bitsOf_traversal] at hbits
  exact (pre_append_injective hbits).1

end Sys2Proof.Machine
end

section
/-! PROOF. R610's parse as a relation: when one parse goes on to another by reading a tree, that `parse()` answers just
then, and what the parse of a whole tree leaves. -/

namespace Sys2Proof.Machine

section
variable (p : Parse)

@[simp] theorem withNode_rest (rest : Bits) : (p.withNode rest).rest = rest := rfl
@[simp] theorem withNode_cnt (rest : Bits) : (p.withNode rest).cnt = p.cnt + 1 := rfl
@[simp] theorem withNode_seen (rest : Bits) : (p.withNode rest).seen = p.seen := rfl
@[simp] theorem withLeaf_rest (v : Byte) (rest : Bits) : (p.withLeaf v rest).rest = rest := rfl
@[simp] theorem withLeaf_cnt (v : Byte) (rest : Bits) : (p.withLeaf v rest).cnt = p.cnt + 1 := rfl
@[simp] theorem withLeaf_seen (v : Byte) (rest : Bits) : (p.withLeaf v rest).seen = v :: p.seen := rfl
@[simp] theorem linked_rest (i a b : Nat) : (p.linked i a b).rest = p.rest := rfl
@[simp] theorem linked_cnt (i a b : Nat) : (p.linked i a b).cnt = p.cnt := rfl
@[simp] theorem linked_seen (i a b : Nat) : (p.linked i a b).seen = p.seen := rfl

end

/-- R610: the parse goes on from `p` to `q` by reading the tree `t`, a node's left part before its right one. -/
inductive Parses : Parse → Parse → Tree → Prop where
  | leaf {p : Parse} {v : Byte} {rest : Bits} (hbits : p.rest = true :: (bin 8 v.toNat ++ rest)) (hnew : v ∉ p.seen) :
      Parses p (p.withLeaf v rest) (.leaf v)
  | node {p p1 p2 : Parse} {rest : Bits} {l r : Tree} (hbits : p.rest = false :: rest)
      (hl : Parses (p.withNode rest) p1 l) (hr : Parses p1 p2 r) :
      Parses p (p2.linked p.cnt (p.cnt + 1) p1.cnt) (.node l r)

namespace Parses

variable {p q : Parse} {t : Tree}

/-! ### What is read -/

/-- What is read is the tree's traversal (R206). -/
theorem rest_eq (h : Parses p q t) : p.rest = t.pre ++ q.rest := by
  induction h with
  | leaf hbits hnew => exact hbits
  | node hbits hl hr ihl ihr =>
    rw [withNode_rest] at ihl
    rw [hbits, ihl, ihr, Tree.pre, linked_rest, List.cons_append, List.append_assoc]

theorem cnt_eq (h : Parses p q t) : q.cnt + 1 = p.cnt + 2 * t.leaves.length := by
  induction h with
  | leaf hbits hnew => rfl
  | node hbits hl hr ihl ihr =>
    simp only [withNode_cnt, linked_cnt, Tree.leaves, List.length_append] at ihl ⊢
    omega

theorem mem_seen (h : Parses p q t) (v : Byte) : v ∈ q.seen ↔ v ∈ t.leaves ∨ v ∈ p.seen := by
  induction h with
  | leaf hbits hnew => simp [Tree.leaves]
  | node hbits hl hr ihl ihr =>
    rw [linked_seen, ihr, ihl, withNode_seen, Tree.leaves, List.mem_append, or_left_comm, or_assoc]

/-- Every traversal of distinct leaf values not yet seen is read. -/
theorem of_pre {rest : Bits} (hbits : p.rest = t.pre ++ rest) (hnodup : t.leaves.Nodup)
    (hnew : t.leaves.Disjoint p.seen) : ∃ q, Parses p q t ∧ q.rest = rest := by
  induction t generalizing p rest with
  | leaf v => exact ⟨_, .leaf hbits (hnew (List.mem_singleton_self v)), rfl⟩
  | node l r ihl ihr =>
    obtain ⟨hnl, hnr, hapart⟩ := List.nodup_append'.mp hnodup
    obtain ⟨hnewl, hnewr⟩ := List.disjoint_append_left.mp hnew
    rw [Tree.pre, List.cons_append, List.append_assoc] at hbits
    obtain ⟨p1, h1, hrest1⟩ := ihl (p := p.withNode (l.pre ++ (r.pre ++ rest))) rfl hnl hnewl
    have hnew1 : r.leaves.Disjoint p1.seen := fun v hv hseen =>
      ((h1.mem_seen v).mp hseen).elim (fun hvl => hapart hvl hv) (hnewr hv)
    obtain ⟨p2, h2, hrest2⟩ := ihr hrest1 hnr hnew1
    exact ⟨_, .node hbits h1 h2, hrest2⟩

/-! ### `parse()` and the relation -/

/-- An answer of `parse()` has read a tree at the first node it created, and kept to R611's number of nodes. -/
theorem of_parseTree {l f : Nat} {r : Nat} (hp : p.cnt ≤ 2 * l - 1) (h : parseTree l f p = (q, some r)) :
    r = p.cnt ∧ q.cnt ≤ 2 * l - 1 ∧ ∃ t, Parses p q t := by
  induction f generalizing p q r with
  | zero => cases h
  | succ f ih =>
    rw [parseTree] at h
    split at h
    · cases h
    next hcnt =>
    dsimp only at h
    split at h
    · cases h
    · next s hs =>
      split at h
      · cases h
      next hshort =>
      split at h
      · cases h
      next hnew =>
      cases h
      refine ⟨rfl, by dsimp only; omega, _, .leaf ?_ hnew⟩
      rw [hs, bin_byteOf (by rw [List.length_take]; omega), List.take_append_drop]
    · next s hs =>
      split at h
      · cases h
      next p1 a hp1 =>
      split at h
      · cases h
      next p2 b hp2 =>
      cases h
      obtain ⟨rfl, hc1, tl, h1⟩ := ih (by dsimp only; omega) hp1
      obtain ⟨rfl, hc2, tr, h2⟩ := ih hc1 hp2
      exact ⟨rfl, hc2, _, .node hs h1 h2⟩

/-- `parse()` reads every tree that its number of nodes admits, with as much fuel as the tree has nodes (log 28). -/
theorem parseTree_eq {l f : Nat} (h : Parses p q t) (hq : q.cnt ≤ 2 * l - 1) (hf : 2 * t.leaves.length ≤ f + 1) :
    parseTree l f p = (q, some p.cnt) := by
  induction h generalizing f with
  | @leaf p v rest hbits hnew =>
    obtain ⟨f, rfl⟩ := Nat.exists_eq_add_of_le' (show 1 ≤ f by simpa [Tree.leaves] using hf)
    have hcnt : p.cnt ≠ 2 * l - 1 := Nat.ne_of_lt hq
    have hlong : ¬ (bin 8 v.toNat ++ rest).length < 8 := by simp
    have hv : byteOf ((bin 8 v.toNat ++ rest).take 8) = v := by
      rw [List.take_left' (bin_length 8 _), byteOf_bin]
    have hrest : (bin 8 v.toNat ++ rest).drop 8 = rest := List.drop_left' (bin_length 8 _)
    rw [parseTree, if_neg hcnt]
    simp only [hbits, if_neg hlong, hv, hrest, if_neg hnew]
    rfl
  | @node p p1 p2 rest tl tr hbits hl hr ihl ihr =>
    have hcl := hl.cnt_eq
    have hcr := hr.cnt_eq
    have hlpos := leaves_length_pos tl
    have hrpos := leaves_length_pos tr
    simp only [Tree.leaves, List.length_append] at hf
    rw [withNode_cnt] at hcl
    rw [linked_cnt] at hq
    obtain ⟨f, rfl⟩ := Nat.exists_eq_add_of_le' (show 1 ≤ f by omega)
    have hleft : parseTree l f (p.withNode rest) = (p1, some (p.cnt + 1)) := ihl (by omega) (by omega)
    have hright : parseTree l f p1 = (p2, some p1.cnt) := ihr hq (by omega)
    rw [Parse.withNode] at hleft
    rw [parseTree, if_neg (by omega)]
    simp only [hbits, hleft, hright]
    rfl

/-! ### The nodes created -/

theorem extends_parse (h : Parses p q t) : p.Extends q := by
  induction h with
  | leaf hbits hnew => exact Parse.extends_create ..
  | @node p p1 p2 rest l r hbits hl hr ihl ihr =>
    have hcreate : p.Extends (p.withNode rest) := Parse.extends_create ..
    exact ((hcreate.trans ihl).trans ihr).link (Nat.le_refl _) _

/-- R613: the tree stands over the nodes created, numbered in preorder. -/
theorem parsed (h : Parses p q t) (hq : q.cnt ≤ 511) :
    Parsed p q t (List.range' p.cnt (2 * t.leaves.length - 1)) := by
  induction h with
  | leaf hbits hnew =>
    refine .leaf (Nat.lt_of_succ_le hq) hnew ?_
    rw [hbits, List.length_cons, List.length_append, bin_length, Nat.add_comm 8]
  | @node p p1 p2 rest l r hbits hl hr ihl ihr =>
    have hcl := hl.cnt_eq
    have hcr := hr.cnt_eq
    have hlpos := leaves_length_pos l
    have hrpos := leaves_length_pos r
    rw [withNode_cnt] at hcl
    rw [linked_cnt] at hq
    have hnode := (ihl (by omega)).node hbits (ihr hq) hl.extends_parse hr.extends_parse hq
    have hnext : p1.cnt = p.cnt + 1 + (2 * l.leaves.length - 1) := by omega
    have hcount : 2 * (Tree.node l r).leaves.length - 1 =
        (2 * l.leaves.length - 1) + (2 * r.leaves.length - 1) + 1 := by
      simp only [Tree.leaves, List.length_append]
      omega
    rw [hcount, List.range'_succ, ← List.range'_append_1, ← hnext]
    exact hnode

end Parses

/-- R613: every PRIO is 0, and so is every entry that no node has been created in. -/
def Parse.Blank (p : Parse) : Prop :=
  (∀ k, (nodeAt p.nodes k).prio = 0#32) ∧ ∀ k, p.cnt ≤ k → nodeAt p.nodes k = Node.zero

/-- Writing an entry with PRIO 0 below the new count. -/
theorem Parse.Blank.setNode {p q : Parse} (h : p.Blank) {i : Nat} {n : Node} (hnodes : q.nodes = setNode p.nodes i n)
    (hcnt : p.cnt ≤ q.cnt) (hi : i < q.cnt) (hn : n.prio = 0#32) : q.Blank := by
  obtain ⟨hprio, hzero⟩ := h
  have hcases : ∀ k, nodeAt q.nodes k = nodeAt p.nodes k ∨ k = i ∧ (nodeAt q.nodes k).prio = 0#32 := by
    intro k
    by_cases hk : k = i
    · subst hk
      by_cases hlt : k < 511
      · exact .inr ⟨rfl, by rw [hnodes, nodeAt_setNode_self _ _ hlt, hn]⟩
      · exact .inl (by simp [hnodes, Machine.setNode, nodeAt, hlt])
    · exact .inl (by rw [hnodes, nodeAt_setNode_ne _ _ hk])
  refine ⟨fun k => ?_, fun k hk => ?_⟩
  · rcases hcases k with heq | ⟨-, h0⟩
    · rw [heq, hprio]
    · exact h0
  · rw [hnodes, nodeAt_setNode_ne _ _ (by omega), hzero k (by omega)]

theorem Parses.blank {p q : Parse} {t : Tree} (h : Parses p q t) (hp : p.Blank) : q.Blank := by
  induction h with
  | leaf hbits hnew => exact hp.setNode rfl (Nat.le_succ _) (Nat.lt_succ_self _) rfl
  | @node p p1 p2 rest l r hbits hl hr ihl ihr =>
    have hcreate : (p.withNode rest).Blank := hp.setNode rfl (Nat.le_succ _) (Nat.lt_succ_self _) rfl
    have hread := ihr (ihl hcreate)
    have hcl := hl.extends_parse.1
    have hcr := hr.extends_parse.1
    rw [withNode_cnt] at hcl
    exact hread.setNode rfl (Nat.le_refl _) (by rw [linked_cnt]; omega) (hread.1 p.cnt)

/-! ### The parse of a whole tree (R612, R613) -/

/-- Where R612 begins its parse, with the bits `rest` to read. -/
def Parse.start (rest : Bits) : Parse := { nodes := zeroNodes, rest := rest, cnt := 0, seen := [] }

theorem start_blank (rest : Bits) : (Parse.start rest).Blank :=
  ⟨fun k => by rw [Parse.start, nodeAt_zeroNodes, Node.zero], fun k _ => nodeAt_zeroNodes k⟩

/-- The NODE window holds the tree `t` and nothing else, numbered in preorder from 0 with PRIO 0 (R613). -/
structure HoldsInPreorder (ns : Nodes) (t : Tree) : Prop where
  stands : Stands ns 0 t (List.range (2 * t.leaves.length - 1))
  prio : ∀ k, (nodeAt ns k).prio = 0#32
  zero : ∀ k, 2 * t.leaves.length - 1 ≤ k → nodeAt ns k = Node.zero

/-- The commands' fuel finds the tree and its nodes (log 28). -/
theorem HoldsInPreorder.found {ns : Nodes} {t : Tree} (h : HoldsInPreorder ns t) (hmax : t.leaves.length ≤ 256) :
    subtree Config.maxNodes ns 0 = some t ∧
      reach Config.maxNodes ns 0 = some (List.range (2 * t.leaves.length - 1)) := by
  refine h.stands.found ?_
  rw [List.length_range, Config.maxNodes]
  omega

namespace Parses

variable {rest : Bits} {q : Parse} {t : Tree}

theorem start_cnt (h : Parses (.start rest) q t) : q.cnt = 2 * t.leaves.length - 1 := by
  have hcnt : q.cnt + 1 = 0 + 2 * t.leaves.length := h.cnt_eq
  omega

theorem start_parsed (h : Parses (.start rest) q t) (hmax : t.leaves.length ≤ 256) :
    Parsed (.start rest) q t (List.range (2 * t.leaves.length - 1)) := by
  have hcnt := h.start_cnt
  rw [List.range_eq_range']
  exact h.parsed (by omega)

theorem holdsInPreorder (h : Parses (.start rest) q t) (hmax : t.leaves.length ≤ 256) : HoldsInPreorder q.nodes t := by
  obtain ⟨hprio, hzero⟩ := h.blank (start_blank rest)
  rw [h.start_cnt] at hzero
  exact ⟨(h.start_parsed hmax).stands, hprio, hzero⟩

/-- The values of the leaves read are distinct (R611). -/
theorem leaves_nodup (h : Parses (.start rest) q t) (hmax : t.leaves.length ≤ 256) : t.leaves.Nodup := by
  have hparsed := h.start_parsed hmax
  have hseen : q.seen.Perm (t.leaves ++ []) := hparsed.seen
  rw [List.append_nil] at hseen
  exact hseen.nodup_iff.mp (hparsed.nodup List.nodup_nil)

end Parses

end Sys2Proof.Machine
end

section
/-! PROOF. TREE_SERIALIZE and TREE_DESERIALIZE (R601, R610 to R614): the bytes that stand for a tree are the ones parsed
into it, and how the two commands end. -/

namespace Sys2Proof.Machine

/-! ### Free values in memory (R163) -/

/-- Every byte of the range reads the free value of its address. -/
theorem read_scramble_inside {d a n c : Nat} {m : Memory} (hm : m.wf = true) (hfit : a + n ≤ Config.addrSpace)
    (ha : a ≤ c) (hc : c < a + n) : (m.scramble d a n).read c = Config.freeValue d c 8 := by
  induction n generalizing a m with
  | zero => omega
  | succ n ih =>
    rw [Memory.scramble]
    by_cases hac : c = a
    · subst hac
      rw [read_scramble_outside (by omega)]
      exact read_write_self _ hm
    · exact ih (write_wf hm (by omega)) (by omega) (by omega) (by omega)

/-- What a late error leaves in memory, for a DST window below 2^32 (R163; log 6). -/
theorem scrambleDst_memAfterError {s : State} (hm : s.mem.wf = true) (hfit : s.dstA + s.dstN ≤ Config.addrSpace) :
    MemAfterError true s s.scrambleDst := by
  have hclip : clipLen s.dstA s.dstN = s.dstN := by
    unfold clipLen
    omega
  refine ⟨scrambleDst_outside s, nofun, fun _ a ha hlt => ?_⟩
  have hmem : s.scrambleDst.mem = s.mem.scramble s.draw s.dstA s.dstN := by
    rw [scrambleDst_mem]
    exact congrArg _ hclip
  rw [hmem]
  exact read_scramble_inside hm hfit ha hlt

/-! ### TREE_SERIALIZE (R601) -/

theorem exec_treeSerialize {s : State} (hd : s.disturbed = false) (hw : windowsOk .treeSerialize s = true) :
    exec .treeSerialize s = (treeSerializeBody s).finish := windowed_run hd hw

theorem treeSerializeBody_of_short {s : State} (hvalid : s.status.treeValid = true)
    (hcap : s.dstN < 2 + treeBytes s.leafCount.toNat) :
    treeSerializeBody s = .raised .outOfSpace (2 + treeBytes s.leafCount.toNat) s := by
  rw [treeSerializeBody, if_neg (by simp [hvalid]), if_pos hcap]

/-- The current tree's serialization is written when DST has room for it. -/
theorem treeSerializeBody_of_fits {s : State} {tr : Tree} (hvalid : s.status.treeValid = true) (htr : s.tree = some tr)
    (hlen : tr.leaves.length = s.leafCount.toNat) (hcap : 2 + treeBytes tr.leaves.length ≤ s.dstN) :
    treeSerializeBody s = writeDst (ser tr.leaves.length tr) (2 + treeBytes tr.leaves.length) s := by
  rw [hlen] at hcap
  rw [treeSerializeBody, if_neg (by simp [hvalid]), if_neg (Nat.not_lt.mpr hcap), htr, hlen]

/-- The length of a serialization fits RESULT_LEN. -/
theorem resultLen_toNat_of_legal {tr : Tree} (h : tr.legal) :
    (BitVec.ofNat 32 (2 + treeBytes tr.leaves.length)).toNat = 2 + treeBytes tr.leaves.length := by
  have hbytes := treeBytes_le h.1
  rw [BitVec.toNat_ofNat]
  omega

/-- TREE_SERIALIZE's rule names none of the engine's results. -/
theorem treeSerialize_keeps {s t : State} (h : exec .treeSerialize s = .next t) :
    KeepsArgs s t ∧ KeepsResults s t := by
  have hkeeps := exec_keepsBut h
  obtain ⟨htree, hvalid⟩ := hkeeps.tree rfl
  exact ⟨hkeeps.args, hkeeps.freq rfl, htree, hkeeps.codes rfl, ⟨hvalid, hkeeps.codesValid rfl rfl⟩,
    hkeeps.orig rfl, hkeeps.lzw rfl⟩

/-- Settles O35: the pseudocode raises over an unchanged state when the window is short (`treeSerializeBody_of_short`),
and else writes the serialization of the current tree, all of it or with a refused byte (`writeDst_cases`). -/
theorem treeSerializeCompletes : Obligations.TreeSerializeCompletes := by
  unfold Obligations.TreeSerializeCompletes
  intro s hd hw hvalid
  have hexec := exec_treeSerialize hd hw
  refine ⟨fun hinv hm hcap => ?_, fun hcap => ?_⟩
  · obtain ⟨tr, htr, hlegal, hlen⟩ := tree_of_treeInv hinv hvalid
    obtain ⟨-, hfits, -⟩ := (windowsOk_iff .treeSerialize s).mp hw
    have hfit := hfits rfl
    have hser := ser_length tr.leaves.length tr
    rw [← hlen] at hcap ⊢
    rw [treeSerializeBody_of_fits hvalid htr hlen hcap] at hexec
    rcases writeDst_cases (ser tr.leaves.length tr) (2 + treeBytes tr.leaves.length) s with
      ⟨hok, hrun⟩ | ⟨hno, hrun⟩
    · rw [hser] at hok
      refine ⟨fun _ => ?_, fun hno => absurd hok hno⟩
      rw [hrun, finish_done] at hexec
      have hresult := resultLen_toNat_of_legal hlegal
      obtain ⟨hargs, hresults⟩ := treeSerialize_keeps hexec
      exact ⟨_, tr, htr, rfl, hexec, ⟨rfl, rfl, rfl, rfl, rfl⟩, hresult,
        ⟨peek_poke hm (by omega), fun a ha => read_poke_outside ha⟩, hser.trans hresult.symm, hargs, hresults⟩
    · rw [hser] at hno
      refine ⟨fun hok => absurd (hno.symm.trans hok) Bool.false_ne_true, fun _ => ?_⟩
      rw [hrun, finish_raised] at hexec
      obtain ⟨hargs, hresults⟩ := treeSerialize_keeps hexec
      exact ⟨_, hexec, ⟨rfl, rfl, rfl, rfl, rfl, rfl⟩, hargs, hresults, scrambleDst_memAfterError hm hfit⟩
  · rw [hexec, treeSerializeBody_of_short hvalid hcap]
    exact raised_failedClean .outOfSpace _ s

/-! ### The traversal bytes (R610, R611) -/

/-- R610, R611: the traversal of a tree is parsed into it. -/
theorem parseBody_of_traversal {t : Tree} {q : Parse} (hmax : t.leaves.length ≤ 256) (h : Parses (.start t.pre) q t)
    (hend : q.rest = []) (s : State) :
    parseBody t.leaves.length (bytesOf (pad8 t.pre)) s = .done (s.setTree q.nodes 0 t.leaves.length) := by
  have hpre : 10 * t.leaves.length - 1 = t.pre.length := by
    have := pre_length t
    omega
  have hcnt := h.start_cnt
  have hpos := leaves_length_pos t
  have hparse : parseTree t.leaves.length (2 * t.leaves.length)
      { nodes := zeroNodes, rest := t.pre, cnt := 0, seen := [] } = (q, some 0) :=
    h.parseTree_eq (by omega) (by omega)
  rw [parseBody, bitsOf_traversal, hpre, List.drop_left, List.take_left, if_neg (by simp), hparse]
  simp [hend]

/-- R611: bytes that are parsed without error are the traversal of the tree read. -/
theorem traversal_of_parseBody {l : Nat} {bs : List Byte} {s v : State} (hl1 : 1 ≤ l) (hl : l ≤ 256)
    (hlen : bs.length = treeBytes l) (h : parseBody l bs s = .done v) :
    ∃ t q, t.legal ∧ t.leaves.length = l ∧ bs = bytesOf (pad8 t.pre) ∧ Parses (.start t.pre) q t ∧
      v = s.setTree q.nodes 0 l := by
  rcases parseBody_cases l bs s with ⟨ns, hr⟩ | ⟨q, r, hpad, hparse, hend, hd⟩
  · cases hr.symm.trans h
  · obtain ⟨rfl, -, t, ht⟩ := Parses.of_parseTree (Nat.zero_le _) hparse
    have hread : (bitsOf bs).take (10 * l - 1) = t.pre := by
      have := ht.rest_eq
      rwa [hend, List.append_nil] at this
    have hcount : t.leaves.length = l := by
      have hbytes := treeBytes_spec l
      have hpre := pre_length t
      rw [← hread, List.length_take, bitsOf_length, hlen] at hpre
      omega
    have hbits : bitsOf bs = t.pre ++ (bitsOf bs).drop (10 * l - 1) := by
      rw [← hread, List.take_append_drop]
    rw [hread] at ht
    refine ⟨t, q, ⟨hcount.trans_le hl, ht.leaves_nodup (hcount.trans_le hl)⟩, hcount, ?_, ht,
      Ending.done.inj (h.symm.trans hd)⟩
    exact eq_traversal_of_bits (hcount ▸ hlen) hbits hpad

/-! ### The header (R206, R612) -/

/-- A window begins with a serialization when its first two bytes are the leaf count and the others the traversal. -/
theorem peek_eq_ser_iff {m : Memory} {a l : Nat} (hl : l < 2 ^ 16) (t : Tree) :
    m.peek a (2 + treeBytes l) = ser l t ↔
      beNat (m.peek a 2) = l ∧ m.peek (a + 2) (treeBytes l) = bytesOf (pad8 t.pre) := by
  rw [peek_add, ser]
  constructor
  · intro h
    obtain ⟨hhead, htail⟩ := List.append_inj h (by rw [peek_length, be16_length])
    exact ⟨by rw [hhead, beNat_be16 hl], htail⟩
  · rintro ⟨hhead, htail⟩
    rw [htail, ← hhead, be16_beNat (peek_length ..)]

/-- R612: past the header checks the traversal is parsed. -/
theorem deserializeBody_of_header {a n l : Nat} {s : State} (hhead : beNat (s.mem.peek a 2) = l) (hl1 : 1 ≤ l)
    (hl : l ≤ 256) (hn : 2 + treeBytes l ≤ n) (hread : allOk s.plat .read a (2 + treeBytes l) = true) :
    deserializeBody a n s = parseBody l (s.mem.peek (a + 2) (treeBytes l)) s := by
  rw [allOk_add, Bool.and_eq_true] at hread
  obtain ⟨h2, hrest⟩ := hread
  have hrange : ¬ (l = 0 ∨ Config.maxLeaves < l) := by
    unfold Config.maxLeaves
    omega
  rw [deserializeBody, if_neg (by omega), memRead_of_allOk h2]
  dsimp only
  rw [hhead, if_neg hrange, if_neg (by omega), memRead_of_allOk hrest]

/-- R612, R1003: a window too short for a header, a leaf count outside 1 to 256, or a traversal that does not fit. -/
theorem deserializeBody_of_bad_header {a n : Nat} {s : State}
    (h : n < 2 ∨ allOk s.plat .read a 2 = true ∧ (beNat (s.mem.peek a 2) = 0 ∨ 256 < beNat (s.mem.peek a 2) ∨
      n < 2 + treeBytes (beNat (s.mem.peek a 2)))) : deserializeBody a n s = .raised .corruptTree 0 s := by
  rw [deserializeBody]
  by_cases hn : n < 2
  · rw [if_pos hn]
  rw [if_neg hn]
  obtain ⟨hread, hbad⟩ := h.resolve_left hn
  rw [memRead_of_allOk hread]
  dsimp only
  by_cases hrange : beNat (s.mem.peek a 2) = 0 ∨ Config.maxLeaves < beNat (s.mem.peek a 2)
  · rw [if_pos hrange]
  · rw [if_neg hrange, if_pos ((or_assoc.mpr hbad).resolve_left hrange)]

/-! ### TREE_DESERIALIZE (R612 to R614) -/

theorem exec_treeDeserialize {s : State} (hd : s.disturbed = false) (hw : windowsOk .treeDeserialize s = true) :
    exec .treeDeserialize s = (treeDeserializeBody s).finish := windowed_run hd hw

/-- `s` with the tree of `l` leaves in the window `ns`, and RESULT_LEN the bytes consumed: what TREE_DESERIALIZE leaves
but for its completion. -/
def State.parsedInto (ns : Nodes) (l : Nat) (s : State) : State :=
  (s.setTree ns 0 l).setResultLen (2 + treeBytes l)

theorem treeDeserializeBody_of_done {s : State} {ns : Nodes} {l : Nat} (hl : l ≤ 256)
    (h : deserializeBody s.srcA s.srcN s = .done (s.setTree ns 0 l)) :
    treeDeserializeBody s = .done (s.parsedInto ns l) := by
  rw [treeDeserializeBody, h, andThen_done, setTree_leafCount_toNat ns hl, State.parsedInto]

theorem treeDeserializeBody_of_raised {s w : State} {x : ErrCode} {n : Nat}
    (h : deserializeBody s.srcA s.srcN s = .raised x n w) : treeDeserializeBody s = .raised x n w := by
  rw [treeDeserializeBody, h, andThen_raised]

/-- What TREE_DESERIALIZE keeps beside memory is what its rule does not name (`exec_keepsBut`). -/
theorem treeDeserialize_keeps {s t : State} (h : exec .treeDeserialize s = .next t) (hmem : t.mem = s.mem) :
    KeepsArgs s t ∧ KeepsFreq s t ∧ KeepsCodes s t ∧ KeepsOrig s t ∧ KeepsLzw s t ∧ KeepsMem s t := by
  have hkeeps := exec_keepsBut h
  exact ⟨hkeeps.args, hkeeps.freq rfl, hkeeps.codes rfl, hkeeps.orig rfl, hkeeps.lzw rfl, fun a => by rw [hmem]⟩

/-- R613: what the registers hold once the tree `tr` is in the window. -/
theorem parsedInto_registers {ns : Nodes} {tr : Tree} (hlegal : tr.legal) (h : HoldsInPreorder ns tr) (s : State) :
    (s.parsedInto ns tr.leaves.length).resultLen.toNat = 2 + treeBytes tr.leaves.length ∧
      (s.parsedInto ns tr.leaves.length).tree = some tr ∧ (s.parsedInto ns tr.leaves.length).treeOk = true ∧
      (s.parsedInto ns tr.leaves.length).leafCount.toNat = tr.leaves.length ∧
      (s.parsedInto ns tr.leaves.length).nodeCount.toNat = 2 * tr.leaves.length - 1 := by
  have ⟨hmax, hnodup⟩ := hlegal
  have hvalid := h.stands.treeValid hnodup rfl hmax fun j hj => List.mem_range.mp hj
  refine ⟨resultLen_toNat_of_legal hlegal, ?_, setTree_treeOk hvalid s, setTree_leafCount_toNat ns hmax s, ?_⟩
  · exact (h.found hmax).1
  · rw [State.parsedInto, setResultLen_nodeCount, setTree_nodeCount, BitVec.toNat_ofNat]
    omega

/-- Settles O38: a tree's traversal is read (`Parses.of_pre`), `parse()` reads it (`parseBody_of_traversal`), and it
leaves the tree numbered in preorder (`Parses.holdsInPreorder`). -/
theorem treeDeserializeRebuildsTree : Obligations.TreeDeserializeRebuildsTree := by
  unfold Obligations.TreeDeserializeRebuildsTree
  intro s tr hd hw hlegal hn hread hpeek
  have ⟨hmax, hnodup⟩ := hlegal
  obtain ⟨hhead, htraversal⟩ := (peek_eq_ser_iff (by omega) tr).mp hpeek
  obtain ⟨q, hq, hend⟩ := Parses.of_pre (p := .start tr.pre) (List.append_nil _).symm hnodup
    (List.disjoint_nil_right _)
  have hbody : deserializeBody s.srcA s.srcN s = .done (s.setTree q.nodes 0 tr.leaves.length) := by
    rw [deserializeBody_of_header hhead (leaves_length_pos tr) hmax hn hread, htraversal,
      parseBody_of_traversal hmax hq hend]
  have hexec := exec_treeDeserialize hd hw
  rw [treeDeserializeBody_of_done hmax hbody, finish_done] at hexec
  have hholds := hq.holdsInPreorder hmax
  obtain ⟨hresult, htree, hok, hleaves, hnodes⟩ := parsedInto_registers hlegal hholds s
  exact ⟨_, hexec, ⟨rfl, rfl, rfl, rfl, rfl⟩, hresult, htree, hok, hleaves, hnodes, rfl, rfl, rfl,
    (hholds.found hmax).2, hholds.prio, hholds.zero, treeDeserialize_keeps hexec rfl⟩

/-- R611, R612: what is accepted is the serialization of the tree that is left in the window. -/
theorem ser_of_deserializeBody {a n : Nat} {s v : State} (h : deserializeBody a n s = .done v) :
    ∃ tr ns, tr.legal ∧ HoldsInPreorder ns tr ∧
      s.mem.peek a (2 + treeBytes tr.leaves.length) = ser tr.leaves.length tr ∧
      v = s.setTree ns 0 tr.leaves.length := by
  rcases deserializeBody_cases a n s with ⟨x, -, hr⟩ | hr | ⟨l, -, hhead, hl1, hl, -, -, hparse⟩
  · cases hr.symm.trans h
  · cases hr.symm.trans h
  · obtain ⟨tr, q, hlegal, rfl, htraversal, hq, hv⟩ :=
      traversal_of_parseBody hl1 hl (peek_length ..) (hparse.symm.trans h)
    have hpeek := (peek_eq_ser_iff (by omega) tr).mpr ⟨hhead.symm, htraversal⟩
    exact ⟨tr, q.nodes, hlegal, hq.holdsInPreorder hl, hpeek, hv⟩

/-- An undisturbed command that ended without error has run its pseudocode to its last line. -/
theorem bodyOf_done_of_completed {i : Instr} {s t : State} (hd : s.disturbed = false) (h : exec i s = .next t)
    (h0 : t.status.ecode = 0#4) : ∃ w, bodyOf i s = .done w ∧ t = w.complete w.status.completed := by
  rcases exec_next h with ⟨hdist, -⟩ | rfl | ⟨-, hbody⟩
  · exact absurd (hd.symm.trans hdist) Bool.false_ne_true
  · cases h0
  · exact finish_completed hbody h0

/-- Settles O39: the pseudocode has run to its end (`bodyOf_done_of_completed`), over the serialization of the tree it
leaves (`ser_of_deserializeBody`). -/
theorem acceptedSerializationIsCanonical : Obligations.AcceptedSerializationIsCanonical := by
  unfold Obligations.AcceptedSerializationIsCanonical
  intro s t hd h h0
  obtain ⟨w, hw, rfl⟩ := bodyOf_done_of_completed hd h h0
  obtain ⟨v, hv, -⟩ := andThen_eq_done hw
  obtain ⟨tr, ns, hlegal, hholds, hpeek, rfl⟩ := ser_of_deserializeBody hv
  cases hw.symm.trans (treeDeserializeBody_of_done hlegal.1 hv)
  obtain ⟨hresult, htree, hok, hleaves, -⟩ := parsedInto_registers hlegal hholds s
  rw [complete_leafCount, complete_resultLen, hleaves]
  exact ⟨hok, tr, htree, hlegal, hpeek, hresult⟩

/-- Settles O40: a bad header raises over an unchanged state (`deserializeBody_of_bad_header`); past the header the
parse raises over the nodes parsed so far (`parseBody_cases`), as it accepts traversals of trees only
(`traversal_of_parseBody`). -/
theorem truncatedSerializationIsCorrupt : Obligations.TruncatedSerializationIsCorrupt := by
  unfold Obligations.TruncatedSerializationIsCorrupt
  intro s hd hw
  have hexec := exec_treeDeserialize hd hw
  refine ⟨fun hbad => ?_, fun l hhead hl1 hl hn hread hno => ?_⟩
  · rw [hexec, treeDeserializeBody_of_raised (deserializeBody_of_bad_header hbad)]
    exact raised_failedClean .corruptTree 0 s
  · have hbody := deserializeBody_of_header hhead hl1 hl hn hread
    rcases parseBody_cases l (s.mem.peek (s.srcA + 2) (treeBytes l)) s with ⟨ns, hr⟩ | ⟨q, r, -, -, -, hdone⟩
    · rw [treeDeserializeBody_of_raised (hbody.trans hr), finish_raised] at hexec
      exact ⟨_, hexec, ⟨rfl, rfl, rfl, rfl, rfl, rfl⟩, rfl, rfl, rfl, rfl, rfl, treeDeserialize_keeps hexec rfl⟩
    · obtain ⟨tr, -, hlegal, rfl, htraversal, -, -⟩ := traversal_of_parseBody hl1 hl (peek_length ..) hdone
      exact absurd ((peek_eq_ser_iff (by omega) tr).mpr ⟨hhead, htraversal⟩) (hno tr hlegal)

end Sys2Proof.Machine
end

section
/-! PROOF. BIT_PACK (R700 to R703): the ends of its pseudocode, and how a command that writes DST completes. -/

namespace Sys2Proof.Machine

/-! ### A command's last write (R161, R303) -/

/-- A command that ends by writing `out`, all of it accepted, leaves it in DST and its length in RESULT_LEN. -/
theorem writeDst_completes {s : State} {out : List Byte} (hm : s.mem.wf = true)
    (hfit : s.dstA + s.dstN ≤ Config.addrSpace) (hlen : out.length ≤ s.dstN) (hw : s.DstWritable out.length) :
    ∃ t, (writeDst out out.length s).finish = .next t ∧ Completed s t ∧ t.resultLen.toNat = out.length ∧
      WroteDst out s t ∧ KeepsArgs s t ∧ KeepsResults s t := by
  have hrun : writeDst out out.length s = .done ((s.setMem (s.mem.poke s.dstA out)).setResultLen out.length) :=
    if_pos hw
  have hresult : (BitVec.ofNat 32 out.length).toNat = out.length :=
    Nat.mod_eq_of_lt (Nat.lt_of_le_of_lt hlen s.latch.dstCap.isLt)
  rw [hrun, finish_done]
  have hwrote := peek_poke hm (a := s.dstA) (bs := out) (by omega)
  refine ⟨_, rfl, ⟨rfl, rfl, rfl, rfl, rfl⟩, hresult, ⟨hwrote, fun a ha => read_poke_outside ha⟩, ?_, ?_⟩
  · exact ⟨rfl, rfl, rfl, rfl, rfl, rfl, rfl, rfl, rfl, rfl, rfl⟩
  · exact ⟨rfl, ⟨rfl, rfl, rfl, rfl⟩, ⟨rfl, rfl⟩, ⟨rfl, rfl⟩, rfl, rfl, rfl, rfl, rfl⟩

/-! ### BIT_PACK (R702) -/

theorem exec_bitPack {s : State} (hd : s.disturbed = false) (hw : windowsOk .bitPack s = true) :
    exec .bitPack s = (bitPackBody s).finish := windowed_run hd hw

theorem src_eq_nil_iff {s : State} : s.src = [] ↔ s.srcN = 0 := by
  rw [← List.length_eq_zero_iff, State.src, peek_length]

theorem bitPackBody_of_empty {s : State} (hvalid : s.status.codesValid = true) (hn : s.srcN = 0) :
    bitPackBody s = .raised .emptyInput 0 s := by
  rw [bitPackBody, if_neg (by simp [hvalid]), if_pos hn]

/-- Pass 1 raises at a byte without a code. -/
theorem bitPackBody_of_no_code {s : State} (hvalid : s.status.codesValid = true) (hread : s.SrcReadable)
    (h : ∃ b ∈ s.src, atByte s.codeLen b = 0#8) : bitPackBody s = .raised .noCode 0 s := by
  obtain ⟨b, hb, h0⟩ := h
  have hn : s.srcN ≠ 0 := mt src_eq_nil_iff.mpr (List.ne_nil_of_mem hb)
  rw [bitPackBody, if_neg (by simp [hvalid]), if_neg hn, readable_of_allOk hread]
  exact if_pos (List.any_eq_true.mpr ⟨b, hb, decide_eq_true h0⟩)

/-- Once every byte is known to have a code, the room in DST decides. -/
theorem bitPackBody_of_coded {s : State} (hvalid : s.status.codesValid = true) (hn : s.srcN ≠ 0) (hread : s.SrcReadable)
    (h : ∀ b ∈ s.src, atByte s.codeLen b ≠ 0#8) :
    bitPackBody s =
      if s.dstN < packedLen (payloadLen s.codeLen s.src) then
        .raised .outOfSpace (packedLen (payloadLen s.codeLen s.src)) s
      else
        writeDst (packChunks (payloadLen s.codeLen s.src) (s.src.map (codeOf s.codeLen s.codeBits)))
          (packedLen (payloadLen s.codeLen s.src)) s := by
  have hcoded : ¬ (s.src.any fun b => decide (atByte s.codeLen b = 0#8)) = true := by simpa using h
  have hall : allOk s.plat .read s.srcA s.srcN = true := hread
  rw [bitPackBody, if_neg (by simp [hvalid]), if_neg hn, readable_of_allOk hread]
  exact (if_neg hcoded).trans (if_neg (by simp [hall]))

/-- R703: the accumulator of pass 2 emits the packed stream of the codes in order. -/
theorem packChunks_codes (len : Vector Byte 256) (bits : Vector (BitVec 256) 256) {bs : List Byte} (h : bs ≠ []) :
    packChunks (payloadLen len bs) (bs.map (codeOf len bits)) = pack (bs.flatMap (codeOf len bits)) := by
  rw [packChunks_eq_pack (codes_length len bits bs) (by simpa using h), List.flatMap_def]

theorem pack_codes_length (len : Vector Byte 256) (bits : Vector (BitVec 256) 256) (bs : List Byte) :
    (pack (bs.flatMap (codeOf len bits))).length = packedLen (payloadLen len bs) := by
  rw [pack_length, List.flatMap_def, codes_length]

/-- Settles O42: with every byte coded and room in DST the pseudocode ends in a write (`bitPackBody_of_coded`) of the
packed codes (`packChunks_codes`), and that write is all it does (`writeDst_completes`). -/
theorem bitPackCompletes : Obligations.BitPackCompletes := by
  unfold Obligations.BitPackCompletes
  intro s hm hd hw hvalid hn hread hcoded hcap hdst
  obtain ⟨-, hfits, -⟩ := (windowsOk_iff .bitPack s).mp hw
  have hlen := pack_codes_length s.codeLen s.codeBits s.src
  have hroom : ¬ s.dstN < packedLen (payloadLen s.codeLen s.src) := Nat.not_lt.mpr hcap
  have hbody : bitPackBody s = writeDst (pack (s.src.flatMap (codeOf s.codeLen s.codeBits)))
      (pack (s.src.flatMap (codeOf s.codeLen s.codeBits))).length s := by
    rw [bitPackBody_of_coded hvalid hn hread hcoded, if_neg hroom, packChunks_codes _ _ (mt src_eq_nil_iff.mp hn),
      hlen]
  obtain ⟨t, ht, hdone, hresult, hkept⟩ := writeDst_completes hm (hfits rfl) (hlen.trans_le hcap) (by rwa [hlen])
  exact ⟨t, (exec_bitPack hd hw).trans (hbody ▸ ht), hdone, hresult.trans hlen, hresult, hkept⟩

/-- Settles O43: each of the three raises comes over the state as it was (`raised_failedClean`). -/
theorem bitPackErrors : Obligations.BitPackErrors := by
  unfold Obligations.BitPackErrors
  intro s hd hw hvalid
  rw [exec_bitPack hd hw]
  refine ⟨fun hn => ?_, fun hread hno => ?_, fun hn hread hcoded hcap => ?_⟩
  · rw [bitPackBody_of_empty hvalid hn]
    exact raised_failedClean .emptyInput 0 s
  · rw [bitPackBody_of_no_code hvalid hread hno]
    exact raised_failedClean .noCode 0 s
  · have hshort : s.dstN < packedLen (payloadLen s.codeLen s.src) := hcap
    rw [bitPackBody_of_coded hvalid hn hread hcoded, if_pos hshort]
    exact raised_failedClean .outOfSpace _ s

end Sys2Proof.Machine
end

section
/-! PROOF. BIT_UNPACK (R711 to R714): the walk from ROOT reads one code, the loop reads the symbols a payload splits
into, and how the command ends over such a payload. -/

namespace Sys2Proof.Machine

/-! ### One symbol (R711, R713) -/

/-- The walk along a path ends at its leaf, and leaves the bits behind it. -/
theorem descend_path_append {t : Tree} {b : Byte} {c : Bits} (h : t.path b = some c) (rest : Bits) :
    t.descend (c ++ rest) = some (b, rest) := by
  induction t generalizing c with
  | leaf v =>
    obtain ⟨rfl, hc⟩ := Option.ite_none_right_eq_some.mp h
    cases hc
    rfl
  | node l r ihl ihr =>
    rcases path_node_cases h with ⟨q, hq, rfl⟩ | ⟨q, -, hq, rfl⟩
    · exact ihl hq
    · exact ihr hq

/-- With distinct leaf values, the bits a walk takes are the path to the value it yields. -/
theorem path_of_descend {t : Tree} (hnodup : t.leaves.Nodup) {b : Byte} {p rest : Bits}
    (h : t.descend p = some (b, rest)) : ∃ c, t.path b = some c ∧ p = c ++ rest := by
  induction t generalizing p with
  | leaf v =>
    cases h
    exact ⟨[], if_pos rfl, rfl⟩
  | node l r ihl ihr =>
    obtain ⟨hl, hr, hdisj⟩ := List.nodup_append'.mp hnodup
    match p, h with
    | false :: p, h =>
      obtain ⟨c, hc, rfl⟩ := ihl hl h
      exact ⟨false :: c, by rw [path_node_left (mem_of_path hc), hc, Option.map_some], rfl⟩
    | true :: p, h =>
      obtain ⟨c, hc, rfl⟩ := ihr hr h
      have hright : b ∉ l.leaves := fun hb => hdisj hb (mem_of_path hc)
      exact ⟨true :: c, by rw [path_node_right hright, hc, Option.map_some], rfl⟩

theorem decodeOne_nil (t : Tree) : t.decodeOne [] = none := by cases t <;> rfl

/-! ### The symbols of a payload (R712) -/

theorem payload_cons (t : Tree) (b : Byte) (bs : List Byte) :
    t.payload (b :: bs) = (t.code b).getD [] ++ t.payload bs := List.flatMap_cons

/-- A payload without symbols: no symbol can be decoded from it. -/
theorem Tree.splits.nil {t : Tree} (hnodup : t.leaves.Nodup) {p rest : Bits} (h : t.splits p [] rest) :
    p = rest ∧ t.decodeOne p = none := by
  cases t with
  | leaf v =>
    obtain ⟨hbs, rfl⟩ := h
    have hp : p = [] := by simpa using hbs.symm
    exact ⟨hp, hp ▸ rfl⟩
  | node l r =>
    obtain ⟨-, rfl, hno⟩ := h
    refine ⟨rfl, Option.eq_none_iff_forall_ne_some.mpr fun ⟨b, left⟩ hsome => ?_⟩
    obtain ⟨c, hc, happ⟩ := path_of_descend hnodup hsome
    exact hno b c hc ⟨left, happ.symm⟩

/-- A payload with a first symbol: R711 decodes it, and the bits behind it hold the others. -/
theorem Tree.splits.cons {t : Tree} {p rest : Bits} {b : Byte} {bs : List Byte} (h : t.splits p (b :: bs) rest) :
    ∃ p', t.decodeOne p = some (b, p') ∧ t.splits p' bs rest := by
  cases t with
  | leaf v =>
    obtain ⟨hbs, hrest⟩ := h
    cases p with
    | nil => cases hbs
    | cons x p =>
      cases hbs
      exact ⟨p, rfl, rfl, hrest⟩
  | node l r =>
    obtain ⟨hmem, rfl, hno⟩ := h
    obtain ⟨hb, hbs⟩ := List.forall_mem_cons.mp hmem
    obtain ⟨c, hc⟩ := code_of_mem hb
    refine ⟨(Tree.node l r).payload bs ++ rest, ?_, hbs, rfl, hno⟩
    rw [payload_cons, hc, Option.getD_some, List.append_assoc]
    exact descend_path_append hc _

/-- The codes of a byte sequence split into it, with nothing left. -/
theorem splits_payload {t : Tree} {bs : List Byte} (h : ∀ b ∈ bs, b ∈ t.leaves) : t.splits (t.payload bs) bs [] := by
  cases t with
  | leaf v =>
    refine ⟨?_, rfl⟩
    have hone : ∀ b ∈ bs, b = v := fun b hb => List.mem_singleton.mp (h b hb)
    have hlen : ((Tree.leaf v).payload bs).length = bs.length := by
      induction bs with
      | nil => rfl
      | cons b bs ih =>
        obtain ⟨rfl, hbs⟩ := List.forall_mem_cons.mp hone
        obtain ⟨-, hleaves⟩ := List.forall_mem_cons.mp h
        rw [payload_cons, List.length_append, ih hleaves hbs, Nat.add_comm]
        simp [Tree.code]
    rw [hlen]
    exact List.eq_replicate_of_mem hone
  | node l r =>
    refine ⟨h, (List.append_nil _).symm, fun b c hc hnil => ?_⟩
    obtain rfl := List.prefix_nil.mp hnil
    rcases path_node_cases hc with ⟨q, -, hq⟩ | ⟨q, -, -, hq⟩ <;> cases hq

/-- R712's loop over a payload that splits into `bs` and `rest`: it yields the first `n` symbols of `bs`, and takes
every symbol and every bit just when those are all. -/
theorem decodeMany_of_splits {t : Tree} (hnodup : t.leaves.Nodup) {p rest : Bits} {bs : List Byte} (n : Nat)
    (h : t.splits p bs rest) :
    (t.decodeMany n p).1 = bs.take n ∧ ((t.decodeMany n p).2 = ([], true) ↔ n = bs.length ∧ rest = []) := by
  induction n generalizing p bs with
  | zero =>
    refine ⟨rfl, ?_⟩
    cases bs with
    | nil => simp [Tree.decodeMany, (h.nil hnodup).1]
    | cons b bs =>
      obtain ⟨p', hp, -⟩ := h.cons
      have hne : p ≠ [] := fun hnil => by simp [hnil, decodeOne_nil] at hp
      simp [Tree.decodeMany, hne]
  | succ n ih =>
    rw [Tree.decodeMany]
    cases bs with
    | nil => simp [(h.nil hnodup).2]
    | cons b bs =>
      obtain ⟨p', hp, hsplits⟩ := h.cons
      obtain ⟨hout, hall⟩ := ih hsplits
      simp [hp, hout, hall]

/-! ### R712 over a stream -/

theorem beNat_peek_one_eq_zero_iff {m : Memory} {a : Nat} : beNat (m.peek a 1) = 0 ↔ m.read a = 0#8 := by
  have hbyte : beNat (m.peek a 1) = (m.read a).toNat := by simp [beNat, Memory.peek]
  rw [hbyte, ← BitVec.toNat_inj]
  rfl

/-- A stream that unpacks begins with a byte that is not 0. -/
theorem unpack_peek {m : Memory} {a n : Nat} {p : Bits} (h : unpack (m.peek a n) = some p) :
    n ≠ 0 ∧ beNat (m.peek a 1) ≠ 0 ∧ payloadBits (m.peek a n) = p := by
  cases n with
  | zero => cases h
  | succ n =>
    rw [Memory.peek, unpack, Option.ite_none_left_eq_some] at h
    obtain ⟨hne, hp⟩ := h
    exact ⟨Nat.succ_ne_zero n, mt beNat_peek_one_eq_zero_iff.mp hne, Option.some.inj hp⟩

/-- A payload with `n` symbols and nothing else: they are written. -/
theorem unpackBody_of_symbols {t : Tree} (hnodup : t.leaves.Nodup) {a m : Nat} {s : State} {p : Bits} {bs : List Byte}
    (ht : s.tree = some t) (hread : allOk s.plat .read a m = true) (hp : unpack (s.mem.peek a m) = some p)
    (h : t.splits p bs []) : unpackBody a m bs.length s = writeDst bs bs.length s := by
  obtain ⟨hm, hfirst, rfl⟩ := unpack_peek hp
  obtain ⟨hout, hall⟩ := decodeMany_of_splits hnodup bs.length h
  rw [unpackBody_eq_writeDst ht hfirst (hall.mpr ⟨rfl, rfl⟩) (allOk_of_le (by omega) hread) (by simp [hread]), hout,
    List.take_length]

/-- R710: a first byte of 0 holds no sentinel. -/
theorem unpackBody_of_zero_first {a m : Nat} {s : State} (n : Nat) (hread : allOk s.plat .read a m = true)
    (h : (s.mem.peek a m).head? = some 0#8) : unpackBody a m n s = .raised .format 0 s := by
  cases m with
  | zero => cases h
  | succ m =>
    have hfirst := beNat_peek_one_eq_zero_iff.mpr (Option.some.inj h)
    rw [unpackBody, memRead_of_allOk (allOk_of_le (by omega) hread)]
    exact if_pos hfirst

/-- A payload with another number of symbols, or with bits left over: LENGTH_MISMATCH, late once a symbol has been
written (R712, R1006). -/
theorem unpackBody_of_mismatch {t : Tree} (hnodup : t.leaves.Nodup) {a m n : Nat} {s : State} {p rest : Bits}
    {bs : List Byte} (ht : s.tree = some t) (hread : allOk s.plat .read a m = true)
    (hp : unpack (s.mem.peek a m) = some p) (h : t.splits p bs rest) (hn : n ≠ 0) (hbad : n ≠ bs.length ∨ rest ≠ [])
    (hw : s.DstWritable n) : unpackBody a m n s = raiseAt (!bs.isEmpty) .lengthMismatch s := by
  obtain ⟨hm, hfirst, rfl⟩ := unpack_peek hp
  obtain ⟨hout, hall⟩ := decodeMany_of_splits hnodup n h
  have hwrite : allOk s.plat .write s.dstA _ = true :=
    hw.of_le (decodeMany_length_le t n (payloadBits (s.mem.peek a m)))
  have hlate : (bs.take n).isEmpty = bs.isEmpty := by
    cases bs <;> simp [hn]
  rw [unpackBody, memRead_of_allOk (allOk_of_le (by omega) hread)]
  dsimp only
  rw [if_neg hfirst, ht]
  dsimp only
  rw [if_neg (by simp [hread]), if_neg (by simp [hwrite]), hout, hlate]
  by_cases hcomplete : (t.decodeMany n (payloadBits (s.mem.peek a m))).2.2 = true
  · have hleft : (t.decodeMany n (payloadBits (s.mem.peek a m))).2.1 ≠ [] := fun hnil => by
      obtain ⟨hlen, hrest⟩ := hall.mp (Prod.ext hnil hcomplete)
      exact hbad.elim (· hlen) (· hrest)
    have hlen := decodeMany_length_of_complete hcomplete
    have hbs : bs ≠ [] := fun hnil => hn (by simpa [hout, hnil] using hlen.symm)
    rw [if_neg (by simp [hcomplete]), if_pos (by simpa using hleft), List.isEmpty_eq_false_iff.mpr hbs, Bool.not_false]
  · rw [if_pos (by simpa using hcomplete)]

/-! ### BIT_UNPACK -/

theorem exec_bitUnpack {s : State} (hd : s.disturbed = false) (hw : windowsOk .bitUnpack s = true) :
    exec .bitUnpack s = (bitUnpackBody s).finish := windowed_run hd hw

theorem bitUnpackBody_of_no_length {s : State} (hvalid : s.status.treeValid = true) (hn : s.latch.origLen.toNat = 0) :
    bitUnpackBody s = .raised .format 0 s := by
  rw [bitUnpackBody, if_neg (by simp [hvalid]), if_pos hn]

section
variable {s : State} (hvalid : s.status.treeValid = true) (hn : s.latch.origLen.toNat ≠ 0)
include hvalid hn

theorem bitUnpackBody_of_empty (hsrc : s.srcN = 0) : bitUnpackBody s = .raised .format 0 s := by
  rw [bitUnpackBody, if_neg (by simp [hvalid]), if_neg hn, if_pos hsrc]

theorem bitUnpackBody_of_short (hsrc : s.srcN ≠ 0) (hcap : s.dstN < s.latch.origLen.toNat) :
    bitUnpackBody s = .raised .outOfSpace s.latch.origLen.toNat s := by
  rw [bitUnpackBody, if_neg (by simp [hvalid]), if_neg hn, if_neg hsrc, if_pos hcap]

theorem bitUnpackBody_of_room (hsrc : s.srcN ≠ 0) (hcap : s.latch.origLen.toNat ≤ s.dstN) :
    bitUnpackBody s = unpackBody s.srcA s.srcN s.latch.origLen.toNat s := by
  rw [bitUnpackBody, if_neg (by simp [hvalid]), if_neg hn, if_neg hsrc, if_neg (Nat.not_lt.mpr hcap)]

end

/-- A stream of exactly ORIG_LEN symbols, with room for them: they are written, and nothing else changes. -/
theorem exec_bitUnpack_of_symbols {s : State} {tr : Tree} {p : Bits} {bs : List Byte} (hinv : s.TreeInv)
    (hm : s.mem.wf = true) (hd : s.disturbed = false) (hw : windowsOk .bitUnpack s = true)
    (hvalid : s.status.treeValid = true) (htr : s.tree = some tr) (hread : s.SrcReadable) (hp : unpack s.src = some p)
    (h : tr.splits p bs []) (hne : bs ≠ []) (hn : s.latch.origLen.toNat = bs.length) (hcap : bs.length ≤ s.dstN)
    (hdst : s.DstWritable bs.length) :
    ∃ t, exec .bitUnpack s = .next t ∧ Completed s t ∧ t.resultLen.toNat = bs.length ∧ WroteDst bs s t ∧
      KeepsArgs s t ∧ KeepsResults s t := by
  obtain ⟨tr', htr', ⟨-, hnodup⟩, -⟩ := tree_of_treeInv hinv hvalid
  cases htr.symm.trans htr'
  obtain ⟨-, hfits, -⟩ := (windowsOk_iff .bitUnpack s).mp hw
  have hlen : s.latch.origLen.toNat ≠ 0 := by simpa [hn] using hne
  rw [exec_bitUnpack hd hw, bitUnpackBody_of_room hvalid hlen (unpack_peek hp).1 (hn.trans_le hcap), hn,
    unpackBody_of_symbols hnodup htr hread hp h]
  exact writeDst_completes hm (hfits rfl) hcap hdst

/-- Settles O44: the codes of the sequence split into it (`splits_payload`). -/
theorem bitUnpackCompletes : Obligations.BitUnpackCompletes := by
  unfold Obligations.BitUnpackCompletes
  intro s tr bs hinv hm hd hw hvalid htr hread hmem hne hp
  exact exec_bitUnpack_of_symbols hinv hm hd hw hvalid htr hread hp (splits_payload hmem) hne

/-- Settles O46: under a one-leaf tree every payload splits into one symbol for each bit. -/
theorem oneLeafSymbolsTakeOneBit : Obligations.OneLeafSymbolsTakeOneBit := by
  unfold Obligations.OneLeafSymbolsTakeOneBit
  intro s v p hinv hm hd hw hvalid htr hread hp hne
  have hsplits : (Tree.leaf v).splits p (List.replicate p.length v) [] := ⟨rfl, rfl⟩
  simpa [hne] using exec_bitUnpack_of_symbols hinv hm hd hw hvalid htr hread hp hsplits

/-! ### The errors of BIT_UNPACK -/

/-- A raise before or after the first write changes STATUS, RESULT_LEN and what R163 leaves free. -/
theorem raised_failed_memAfterError {s : State} (hm : s.mem.wf = true) (hfit : s.dstA + s.dstN ≤ Config.addrSpace)
    (e : ErrCode) (n : Nat) (late : Bool) :
    ∃ t, (Ending.raised e n (if late = true then s.scrambleDst else s)).finish = .next t ∧ Failed e n s t ∧
      KeepsArgs s t ∧ KeepsResults s t ∧ MemAfterError late s t := by
  cases late with
  | false =>
    obtain ⟨t, ht, hfailed, hargs, hresults, hmem⟩ := raised_failedClean e n s
    exact ⟨t, ht, hfailed, hargs, hresults, fun a _ => hmem a, fun _ => hmem, nofun⟩
  | true =>
    obtain ⟨hkept, -, hfree⟩ := scrambleDst_memAfterError hm hfit
    obtain ⟨t, ht, hfailed, hargs, hresults, hmem⟩ := raised_failedClean e n s.scrambleDst
    exact ⟨t, ht, hfailed, hargs, hresults, fun a ha => (hmem a).trans (hkept a ha), nofun,
      fun hlate a hlo hhi => (hmem a).trans (hfree hlate a hlo hhi)⟩

/-- R712's order: each reason to refuse the stream is the first one that the pseudocode meets. -/
theorem bitUnpackBody_of_refused {s : State} {tr : Tree} {e : ErrCode} {n : Nat} {late : Bool}
    (hnodup : tr.leaves.Nodup) (hvalid : s.status.treeValid = true) (htr : s.tree = some tr) (hn : s.latch.origLen.toNat ≠ 0)
    (h : StreamRefused tr s.latch.origLen.toNat s.dstN s.src e n late) (hread : e = .outOfSpace ∨ s.SrcReadable)
    (hdst : e = .lengthMismatch → s.DstWritable s.dstN) :
    bitUnpackBody s = .raised e n (if late = true then s.scrambleDst else s) := by
  rcases h with ⟨rfl, rfl, rfl, hsrc⟩ | ⟨rfl, rfl, rfl, hsrc, hcap⟩ | ⟨rfl, rfl, rfl, hcap, hhead⟩ |
    ⟨rfl, rfl, hcap, p, bs, rest, hp, hsplits, hbad, rfl⟩
  · exact bitUnpackBody_of_empty hvalid hn (src_eq_nil_iff.mp hsrc)
  · exact bitUnpackBody_of_short hvalid hn (mt src_eq_nil_iff.mpr hsrc) hcap
  · have hsrc : s.src ≠ [] := fun hnil => by simp [hnil] at hhead
    rw [bitUnpackBody_of_room hvalid hn (mt src_eq_nil_iff.mpr hsrc) hcap]
    exact unpackBody_of_zero_first _ (hread.resolve_left nofun) hhead
  · rw [bitUnpackBody_of_room hvalid hn (unpack_peek hp).1 hcap]
    exact unpackBody_of_mismatch hnodup htr (hread.resolve_left nofun) hp hsplits hn hbad ((hdst rfl).of_le hcap)

/-- Settles O45: the pseudocode ends in the stated raise (`bitUnpackBody_of_refused`), which leaves what R162 and R163
say (`raised_failed_memAfterError`). -/
theorem bitUnpackWrongLengthIsMismatch : Obligations.BitUnpackWrongLengthIsMismatch := by
  unfold Obligations.BitUnpackWrongLengthIsMismatch
  intro s tr hinv hm hd hw hvalid htr
  rw [exec_bitUnpack hd hw]
  refine ⟨fun h0 => ?_, fun hne e n late hrefused hread hdst => ?_⟩
  · rw [bitUnpackBody_of_no_length hvalid (by rw [h0]; rfl)]
    exact raised_failedClean .format 0 s
  · obtain ⟨tr', htr', ⟨-, hnodup⟩, -⟩ := tree_of_treeInv hinv hvalid
    cases htr.symm.trans htr'
    obtain ⟨-, hfits, -⟩ := (windowsOk_iff .bitUnpack s).mp hw
    have hn : s.latch.origLen.toNat ≠ 0 := fun h0 => hne (BitVec.eq_of_toNat_eq h0)
    rw [bitUnpackBody_of_refused hnodup hvalid htr hn hrefused hread hdst]
    exact raised_failed_memAfterError hm (hfits rfl) e n late

end Sys2Proof.Machine
end

section
/-! PROOF. HUF_COMPRESS (R801 to R803): the tables its first stages leave, the container it then writes or refuses, and how
it ends. -/

namespace Sys2Proof.Machine

/-! ### The Huffman tree of the input (R400, R402) -/

theorem src_length (s : State) : s.src.length = s.srcN := peek_length ..

theorem src_length_lt (s : State) : s.src.length < 2 ^ 32 := peek_src_length_lt (Nat.le_refl _)

/-- Every nonempty input has its tree. -/
theorem treeOfBytes_isSome {bs : List Byte} (hlen : bs.length < 2 ^ 32) (hne : bs ≠ []) :
    ∃ tr, treeOfBytes bs = some tr := by
  obtain ⟨-, tr, htr, -⟩ := buildTree_leaves (symsOf_countBytes_ne_nil hlen hne)
  exact ⟨tr, htr⟩

theorem treeOfBytes_leaves {bs : List Byte} {tr : Tree} (hlen : bs.length < 2 ^ 32) (hne : bs ≠ [])
    (h : treeOfBytes bs = some tr) : tr.leaves.Perm (symsOf (countBytes zeroFreq bs)) := by
  obtain ⟨-, u, hu, hperm⟩ := buildTree_leaves (symsOf_countBytes_ne_nil hlen hne)
  cases h.symm.trans hu
  exact hperm

theorem treeOfBytes_legal {bs : List Byte} {tr : Tree} (hlen : bs.length < 2 ^ 32) (hne : bs ≠ [])
    (h : treeOfBytes bs = some tr) : tr.legal := by
  have hperm := treeOfBytes_leaves hlen hne h
  exact ⟨hperm.length_eq.trans_le (symsOf_length_le _), hperm.nodup_iff.mpr (symsOf_nodup _)⟩

theorem mem_treeOfBytes {bs : List Byte} {tr : Tree} (hlen : bs.length < 2 ^ 32) (hne : bs ≠ [])
    (h : treeOfBytes bs = some tr) (b : Byte) : b ∈ tr.leaves ↔ b ∈ bs := by
  rw [(treeOfBytes_leaves hlen hne h).mem_iff, mem_symsOf, ← BitVec.toNat_ne_iff_ne, countBytes_toNat hlen b,
    ← List.count_pos_iff, Nat.pos_iff_ne_zero]
  rfl

/-- ROOT holds the index that the build answers. -/
theorem buildBody_tree_eq {s : State} (h : symsOf s.freq ≠ []) :
    (buildBody s).tree = subtree Config.maxNodes (buildTree s.freq).1 (buildTree s.freq).2 := by
  obtain ⟨hroot, -⟩ := buildTree_leaves h
  rw [State.tree, buildBody, setTree_nodes, setTree_root, BitVec.toNat_ofNat, Nat.mod_eq_of_lt (by omega)]

/-! ### The tables (R802, stages 1 to 3) -/

/-- `s` with what R802 has written before it looks at the container's length: FREQ, the tree and the code table of the
input, and ORIG_LEN. -/
def State.hufTables (tr : Tree) (s : State) : State :=
  ((buildBody s.countedSrc).setCodes tr.codeTable.len tr.codeTable.bits).setOrigLen s.srcN

/-- The result registers of `t` hold the length, the histogram, the tree `tr` and the code table of the input of `s`. -/
structure HoldsHufTables (s : State) (tr : Tree) (t : State) : Prop where
  orig : t.origLen = s.latch.srcLen
  freq : ∀ b, (atByte t.freq b).toNat = s.src.count b
  tree : t.tree = some tr
  treeOk : t.treeOk = true
  leafCount : t.leafCount.toNat = tr.leaves.length
  codes : ∀ b, codeOf t.codeLen t.codeBits b = (tr.code b).getD []
  treeValid : t.status.treeValid = true
  codesValid : t.status.codesValid = true

/-- They still do where the engine's results are kept. -/
theorem HoldsHufTables.of_keepsResults {s w t : State} {tr : Tree} (h : HoldsHufTables s tr w) (hk : KeepsResults w t) :
    HoldsHufTables s tr t := by
  obtain ⟨hfreq, ⟨hnodes, hroot, hleaves, hcount⟩, ⟨hlen, hbits⟩, ⟨htv, hcv⟩, horig, -⟩ := hk
  refine ⟨horig.trans h.orig, fun b => ?_, ?_, ?_, ?_, fun b => ?_, htv.trans h.treeValid, hcv.trans h.codesValid⟩
  · rw [hfreq, h.freq]
  · rw [State.tree, hnodes, hroot]
    exact h.tree
  · rw [State.treeOk, hnodes, hroot, hleaves, hcount]
    exact h.treeOk
  · rw [hleaves, h.leafCount]
  · rw [hlen, hbits, h.codes]

section
variable {s : State} {tr : Tree} (hn : s.srcN ≠ 0) (htr : treeOfBytes s.src = some tr)
include hn htr

theorem countedSrc_tree : (buildBody s.countedSrc).tree = some tr :=
  (buildBody_tree_eq (symsOf_countBytes_ne_nil (src_length_lt s) (src_ne_nil hn))).trans htr

theorem srcTree_legal : tr.legal := treeOfBytes_legal (src_length_lt s) (src_ne_nil hn) htr

theorem mem_srcTree (b : Byte) : b ∈ tr.leaves ↔ b ∈ s.src := mem_treeOfBytes (src_length_lt s) (src_ne_nil hn) htr b

theorem hufTables_hold : HoldsHufTables s tr (s.hufTables tr) := by
  have hsyms : symsOf s.countedSrc.freq ≠ [] := symsOf_countBytes_ne_nil (src_length_lt s) (src_ne_nil hn)
  have htree : (s.hufTables tr).tree = some tr := countedSrc_tree hn htr
  have hok : (s.hufTables tr).treeOk = true := setTree_treeOk (buildTree_valid hsyms) s.countedSrc
  exact ⟨BitVec.ofNat_toNat .., countBytes_toNat (src_length_lt s), htree, hok, (tree_leaves_length hok htree).symm,
    codeOf_codeTable (srcTree_legal hn htr), rfl, rfl⟩

end

/-! ### The container (R209, R801) -/

/-- R801: the container's length, from the lengths of its three parts. -/
theorem hufContainer_length_eq (t : Tree) (bs : List Byte) :
    (hufContainer t bs).length = hufLen t.leaves.length (t.payload bs).length := by
  rw [hufContainer, List.length_append, List.length_append, ser_length, pack_length, be32, hufLen]
  simp only [List.length_cons, List.length_nil]
  omega

section
variable {t : Tree} (h : t.legal) (bs : List Byte)
include h

theorem flatMap_codeOf_codeTable : bs.flatMap (codeOf t.codeTable.len t.codeTable.bits) = t.payload bs := by
  rw [funext (codeOf_codeTable h), Tree.payload]

theorem payloadLen_codeTable : payloadLen t.codeTable.len bs = (t.payload bs).length := by
  rw [← codes_length _ t.codeTable.bits, ← List.flatMap_def, flatMap_codeOf_codeTable h]

/-- R703: pass 2 over a tree's code table writes the packed payload. -/
theorem packChunks_codeTable (hbs : bs ≠ []) :
    packChunks (t.payload bs).length (bs.map (codeOf t.codeTable.len t.codeTable.bits)) = pack (t.payload bs) := by
  rw [← payloadLen_codeTable h, packChunks_codes _ _ hbs, flatMap_codeOf_codeTable h]

end

/-! ### The pseudocode (R802) -/

theorem exec_hufCompress {s : State} (hd : s.disturbed = false) (hw : windowsOk .hufCompress s = true) :
    exec .hufCompress s = (hufCompressBody s).finish := windowed_run hd hw

theorem hufCompressBody_of_empty {s : State} (hn : s.srcN = 0) : hufCompressBody s = .raised .emptyInput 0 s := if_pos hn

/-- R803: the no-gain policy lets the container of length `c` pass. -/
theorem gains_iff {s : State} {c : Nat} :
    s.latch.nogainEn = false ∨ c < s.srcN ↔ ¬ (s.latch.nogainEn = true ∧ s.srcN ≤ c) := by
  rw [not_and_or, Bool.not_eq_true, Nat.not_le]

/-- Over ready tables the container's length decides: refused for no gain (R803), refused for no room, or written. -/
theorem hufWrite_eq {w : State} {t : Tree} {out : List Byte} (htree : w.tree = some t)
    (hleaves : w.leafCount.toNat = t.leaves.length)
    (hlen : out.length = hufLen t.leaves.length (weightedLen w.freq w.codeLen))
    (hout : be32 w.srcN ++ ser t.leaves.length t ++
      packChunks (weightedLen w.freq w.codeLen) (w.src.map (codeOf w.codeLen w.codeBits)) = out) :
    hufWrite w =
      if w.latch.nogainEn = true ∧ w.srcN ≤ out.length then .raised .noGain out.length (w.setOrigLen w.srcN)
      else if w.dstN < out.length then .raised .outOfSpace out.length (w.setOrigLen w.srcN)
      else writeDst out out.length (w.setOrigLen w.srcN) := by
  have htree' : (w.setOrigLen w.srcN).tree = some t := htree
  rw [← hleaves] at hlen hout
  rw [hufWrite, htree']
  simp only [Bool.and_eq_true, decide_eq_true_eq]
  rw [hlen, ← hout]
  rfl

/-- R802: over a readable input the stages run through, and the container is written or refused. -/
theorem hufCompressBody_of_readable {s : State} {tr : Tree} (hn : s.srcN ≠ 0) (hread : s.SrcReadable)
    (htr : treeOfBytes s.src = some tr) :
    hufCompressBody s =
      if s.latch.nogainEn = true ∧ s.srcN ≤ (hufContainer tr s.src).length then
        .raised .noGain (hufContainer tr s.src).length (s.hufTables tr)
      else if s.dstN < (hufContainer tr s.src).length then
        .raised .outOfSpace (hufContainer tr s.src).length (s.hufTables tr)
      else writeDst (hufContainer tr s.src) (hufContainer tr s.src).length (s.hufTables tr) := by
  have hlegal := srcTree_legal hn htr
  have hholds := hufTables_hold hn htr
  have hweights : weightedLen (s.hufTables tr).freq (s.hufTables tr).codeLen = (tr.payload s.src).length :=
    (weightedLen_countBytes _ (src_length_lt s)).trans (payloadLen_codeTable hlegal s.src)
  rw [hufCompressBody, if_neg hn, freqBody_of_allOk hread, andThen_done, codesBody_of_tree (countedSrc_tree hn htr),
    andThen_done]
  refine hufWrite_eq (out := hufContainer tr s.src) hholds.tree hholds.leafCount ?_ ?_
  · exact (hufContainer_length_eq tr s.src).trans (congrArg _ hweights.symm)
  · have hpacked := packChunks_codeTable hlegal s.src (src_ne_nil hn)
    rw [← hweights] at hpacked
    rw [hufContainer, src_length, ← hpacked]
    rfl

/-! ### How the command ends -/

theorem hufCompress_keeps {s t : State} (h : exec .hufCompress s = .next t) : KeepsArgs s t ∧ KeepsLzw s t :=
  ⟨(exec_keepsBut h).args, (exec_keepsBut h).lzw rfl⟩

/-- Settles O47: the container is written over the tables (`hufCompressBody_of_readable`), which hold what is stated
(`hufTables_hold`), and that write is the last thing the command does (`writeDst_completes`). -/
theorem hufCompressWritesContainer : Obligations.HufCompressWritesContainer := by
  unfold Obligations.HufCompressWritesContainer
  intro s tr hm hd hw hn hread htr hgain hcap hdst
  obtain ⟨-, hfits, -⟩ := (windowsOk_iff .hufCompress s).mp hw
  have hexec := exec_hufCompress hd hw
  obtain ⟨t, ht, hdone, hresult, hwrote, -, hkept⟩ :=
    writeDst_completes (s := s.hufTables tr) hm (hfits rfl) hcap hdst
  rw [hufCompressBody_of_readable hn hread htr, if_neg (gains_iff.mp hgain), if_neg (Nat.not_lt.mpr hcap), ht] at hexec
  have h := (hufTables_hold hn htr).of_keepsResults hkept
  exact ⟨t, hexec, hdone, hresult, hufContainer_length_eq tr s.src, hwrote, h.orig, h.freq, h.tree, h.treeOk, h.leafCount,
    mem_srcTree hn htr, h.codes, h.treeValid, h.codesValid, hufCompress_keeps hexec⟩

/-- R803, R1008: the two refusals raise over the tables. -/
theorem hufCompressBody_of_refused {s : State} {tr : Tree} {e : ErrCode} (hn : s.srcN ≠ 0) (hread : s.SrcReadable)
    (htr : treeOfBytes s.src = some tr)
    (h : e = .noGain ∧ s.latch.nogainEn = true ∧ s.srcN ≤ (hufContainer tr s.src).length ∨
      e = .outOfSpace ∧ (s.latch.nogainEn = false ∨ (hufContainer tr s.src).length < s.srcN) ∧
        s.dstN < (hufContainer tr s.src).length) :
    hufCompressBody s = .raised e (hufContainer tr s.src).length (s.hufTables tr) := by
  rw [hufCompressBody_of_readable hn hread htr]
  rcases h with ⟨rfl, hgain⟩ | ⟨rfl, hgain, hcap⟩
  · exact if_pos hgain
  · rw [if_neg (gains_iff.mp hgain), if_pos hcap]

/-- Settles O48: an empty input raises over the state as it was; the two refusals raise over the tables
(`hufCompressBody_of_refused`), which a raise keeps (`raised_failedClean`). -/
theorem hufCompressRefusals : Obligations.HufCompressRefusals := by
  unfold Obligations.HufCompressRefusals
  intro s hd hw
  have hexec := exec_hufCompress hd hw
  refine ⟨fun hn => ?_, fun tr e hn hread htr hrefused => ?_⟩
  · rw [hexec, hufCompressBody_of_empty hn]
    exact raised_failedClean .emptyInput 0 s
  · obtain ⟨t, ht, hfailed, -, hkept, hmem⟩ := raised_failedClean e (hufContainer tr s.src).length (s.hufTables tr)
    rw [hufCompressBody_of_refused hn hread htr hrefused, ht] at hexec
    have h := (hufTables_hold hn htr).of_keepsResults hkept
    obtain ⟨hargs, hlzw⟩ := hufCompress_keeps hexec
    exact ⟨t, hexec, hfailed, h.orig, h.freq, h.tree, h.codes, h.treeValid, h.codesValid, hargs, hlzw, hmem⟩

/-! ### The container that was written -/

/-- The pseudocode runs to its last line only over a readable input whose container gains, fits and can be written. -/
theorem hufCompressBody_done {s v : State} (h : hufCompressBody s = .done v) :
    s.srcN ≠ 0 ∧ s.SrcReadable ∧ ∃ tr, treeOfBytes s.src = some tr ∧
      (s.latch.nogainEn = false ∨ (hufContainer tr s.src).length < s.srcN) ∧
      (hufContainer tr s.src).length ≤ s.dstN ∧ s.DstWritable (hufContainer tr s.src).length := by
  have hn : s.srcN ≠ 0 := fun hn => by cases (hufCompressBody_of_empty hn).symm.trans h
  have hread : s.SrcReadable := by
    by_contra hno
    obtain ⟨w, hw, -⟩ := freqBody_of_refused hno
    rw [hufCompressBody, if_neg hn, hw, andThen_raised] at h
    cases h
  obtain ⟨tr, htr⟩ := treeOfBytes_isSome (src_length_lt s) (src_ne_nil hn)
  rw [hufCompressBody_of_readable hn hread htr, ite_raised_eq_done, ite_raised_eq_done] at h
  obtain ⟨hgain, hcap, hwrite⟩ := h
  refine ⟨hn, hread, tr, htr, gains_iff.mpr hgain, Nat.not_lt.mp hcap, ?_⟩
  rcases writeDst_cases (hufContainer tr s.src) (hufContainer tr s.src).length (s.hufTables tr) with
    ⟨hok, -⟩ | ⟨-, hrefused⟩
  · exact hok
  · cases hrefused.symm.trans hwrite

/-- A run without error had a nonempty input, and has written its container. -/
theorem container_of_hufCompress {s t : State} (hm : s.mem.wf = true) (hd : s.disturbed = false)
    (h : exec .hufCompress s = .next t) (h0 : t.status.ecode = 0#4) :
    s.srcN ≠ 0 ∧ ∃ tr, treeOfBytes s.src = some tr ∧ t.mem.peek s.dstA t.resultLen.toNat = hufContainer tr s.src := by
  rcases exec_next h with ⟨hdist, -⟩ | rfl | ⟨hw, hbody⟩
  · exact absurd (hd.symm.trans hdist) Bool.false_ne_true
  · cases h0
  · obtain ⟨v, hv, -⟩ := finish_completed hbody h0
    obtain ⟨hn, hread, tr, htr, hgain, hcap, hdst⟩ := hufCompressBody_done hv
    obtain ⟨u, hu, -, hresult, -, ⟨hwrote, -⟩, -⟩ :=
      hufCompressWritesContainer s tr hm hd hw hn hread htr hgain hcap hdst
    cases h.symm.trans hu
    exact ⟨hn, tr, htr, by rw [hresult, hwrote]⟩

end Sys2Proof.Machine
end

section
/-! PROOF. HUF_DECOMPRESS (R810 to R813): how its pseudocode reads a container part by part, how it ends over each, and that
it restores what HUF_COMPRESS wrote. -/

namespace Sys2Proof.Machine

/-! ### The parts of a window -/

/-- A window that holds one sequence and then another: where each stands. -/
theorem peek_eq_append {m : Memory} {a n : Nat} {xs ys : List Byte} (h : m.peek a n = xs ++ ys) :
    n = xs.length + ys.length ∧ m.peek a xs.length = xs ∧ m.peek (a + xs.length) ys.length = ys := by
  obtain rfl : n = xs.length + ys.length := by rw [← List.length_append, ← h, peek_length]
  rw [peek_add] at h
  exact ⟨rfl, List.append_inj h (peek_length ..)⟩

theorem peek_take (m : Memory) (a : Nat) {k n : Nat} (h : k ≤ n) : (m.peek a n).take k = m.peek a k := by
  obtain ⟨d, rfl⟩ := Nat.exists_eq_add_of_le h
  rw [peek_add, List.take_left' (peek_length ..)]

theorem be32_length (n : Nat) : (be32 n).length = 4 := rfl

theorem beNat_be32 {n : Nat} (h : n < 2 ^ 32) : beNat (be32 n) = n := by
  simp only [beNat, be32, List.foldl_cons, List.foldl_nil, BitVec.toNat_ofNat]
  omega

/-! ### The tree of the container (R612) -/

/-- R612 to R614: the serialization of a tree is parsed into it, whatever follows. -/
theorem deserializeBody_of_ser {a n : Nat} {s : State} {tr : Tree} (hlegal : tr.legal)
    (hn : 2 + treeBytes tr.leaves.length ≤ n) (hread : allOk s.plat .read a (2 + treeBytes tr.leaves.length) = true)
    (hpeek : s.mem.peek a (2 + treeBytes tr.leaves.length) = ser tr.leaves.length tr) :
    ∃ ns, HoldsInPreorder ns tr ∧ deserializeBody a n s = .done (s.setTree ns 0 tr.leaves.length) := by
  have ⟨hmax, hnodup⟩ := hlegal
  obtain ⟨hhead, htraversal⟩ := (peek_eq_ser_iff (by omega) tr).mp hpeek
  obtain ⟨q, hq, hend⟩ := Parses.of_pre (p := .start tr.pre) (List.append_nil _).symm hnodup
    (List.disjoint_nil_right _)
  refine ⟨q.nodes, hq.holdsInPreorder hmax, ?_⟩
  rw [deserializeBody_of_header hhead (leaves_length_pos tr) hmax hn hread, htraversal, parseBody_of_traversal hmax hq hend]

/-- R610, R611: past the header, bytes that are no tree's serialization raise over the nodes parsed so far. -/
theorem deserializeBody_of_no_tree {a n l : Nat} {s : State} (hhead : beNat (s.mem.peek a 2) = l) (hl1 : 1 ≤ l)
    (hl : l ≤ 256) (hn : 2 + treeBytes l ≤ n) (hread : allOk s.plat .read a (2 + treeBytes l) = true)
    (hno : ∀ tr : Tree, tr.legal → s.mem.peek a (2 + treeBytes l) ≠ ser tr.leaves.length tr) :
    ∃ ns, deserializeBody a n s = .raised .corruptTree 0 (s.setNodes ns) := by
  rw [deserializeBody_of_header hhead hl1 hl hn hread]
  rcases parseBody_cases l (s.mem.peek (a + 2) (treeBytes l)) s with hr | ⟨q, r, -, -, -, hdone⟩
  · exact hr
  · obtain ⟨tr, -, hlegal, rfl, htraversal, -, -⟩ := traversal_of_parseBody hl1 hl (peek_length ..) hdone
    exact absurd ((peek_eq_ser_iff (by omega) tr).mpr ⟨hhead, htraversal⟩) (hno tr hlegal)

/-! ### The pseudocode (R812) -/

theorem exec_hufDecompress {s : State} (hd : s.disturbed = false) (hw : windowsOk .hufDecompress s = true) :
    exec .hufDecompress s = (hufDecompressBody s).finish := windowed_run hd hw

theorem hufDecompress_keeps {s t : State} (h : exec .hufDecompress s = .next t) :
    KeepsArgs s t ∧ KeepsFreq s t ∧ KeepsCodes s t ∧ KeepsLzw s t := by
  have hkeeps := exec_keepsBut h
  exact ⟨hkeeps.args, hkeeps.freq rfl, hkeeps.codes rfl, hkeeps.lzw rfl⟩

/-- R812: no room for a length, or a length of 0. -/
theorem hufDecompressBody_of_no_length {s : State} (hread : s.SrcReadable)
    (h : s.srcN < 4 ∨ beNat (s.src.take 4) = 0) : hufDecompressBody s = .raised .format 0 s := by
  rw [hufDecompressBody]
  by_cases h4 : s.srcN < 4
  · exact if_pos h4
  · have hzero := h.resolve_left h4
    rw [State.src, peek_take _ _ (Nat.not_lt.mp h4)] at hzero
    rw [if_neg h4, memRead_of_allOk (allOk_of_le (Nat.not_lt.mp h4) hread)]
    exact if_pos hzero

section
variable {s : State} {n : Nat} {rest : List Byte} (hread : s.SrcReadable) (hn : 0 < n) (hlt : n < 2 ^ 32)
  (hsrc : s.src = be32 n ++ rest)

include hsrc in
/-- What follows the length stands four bytes further on. -/
theorem src_after_length : s.srcN = 4 + rest.length ∧ s.mem.peek (s.srcA + 4) rest.length = rest := by
  obtain ⟨hlen, -, hrest⟩ := peek_eq_append hsrc
  exact ⟨hlen, hrest⟩

include hread hsrc in
theorem allOk_after_length : allOk s.plat .read (s.srcA + 4) rest.length = true := by
  have hall : allOk s.plat .read s.srcA s.srcN = true := hread
  rw [(src_after_length hsrc).1, allOk_add, Bool.and_eq_true] at hall
  exact hall.2

include hread hn hlt hsrc in
/-- A nonzero length goes to ORIG_LEN, and the tree and the payload come from the rest. -/
theorem hufDecompressBody_of_length :
    hufDecompressBody s =
      (deserializeBody (s.srcA + 4) rest.length (s.setOrigLen n)).andThen fun s1 => hufPayload n s1 := by
  obtain ⟨hlen, hhead, -⟩ := peek_eq_append hsrc
  rw [be32_length] at hlen hhead
  rw [hufDecompressBody, if_neg (by omega), memRead_of_allOk (allOk_of_le (by omega) hread), hhead]
  dsimp only
  rw [beNat_be32 hlt, if_neg (by omega), hlen, Nat.add_sub_cancel_left]

include hsrc in
theorem take_after_length {k : Nat} (hk : k ≤ rest.length) : rest.take k = s.mem.peek (s.srcA + 4) k := by
  rw [← peek_take _ _ hk, (src_after_length hsrc).2]

include hread hn hlt hsrc in
/-- R810, R612: a serialization cut short or with a leaf count outside 1 to 256 raises once ORIG_LEN is written. -/
theorem hufDecompressBody_of_bad_header
    (h : rest.length < 2 ∨ beNat (rest.take 2) = 0 ∨ 256 < beNat (rest.take 2) ∨
      rest.length < 2 + treeBytes (beNat (rest.take 2))) :
    hufDecompressBody s = .raised .corruptTree 0 (s.setOrigLen n) := by
  rw [hufDecompressBody_of_length hread hn hlt hsrc, deserializeBody_of_bad_header, andThen_raised]
  by_cases h2 : rest.length < 2
  · exact .inl h2
  · have hrange := h.resolve_left h2
    rw [take_after_length hsrc (Nat.not_lt.mp h2)] at hrange
    exact .inr ⟨allOk_of_le (Nat.not_lt.mp h2) (allOk_after_length hread hsrc), hrange⟩

include hread hn hlt hsrc in
/-- R610, R611: bytes that begin with no tree's serialization raise over the nodes parsed so far. -/
theorem hufDecompressBody_of_no_tree (hl1 : 0 < beNat (rest.take 2)) (hl : beNat (rest.take 2) ≤ 256)
    (hfit : 2 + treeBytes (beNat (rest.take 2)) ≤ rest.length)
    (hno : ∀ tr : Tree, tr.legal → ¬ ser tr.leaves.length tr <+: rest) :
    ∃ ns, hufDecompressBody s = .raised .corruptTree 0 ((s.setOrigLen n).setNodes ns) := by
  have hhead := congrArg beNat (take_after_length hsrc (Nat.le_of_add_right_le hfit)).symm
  have htake := take_after_length hsrc hfit
  obtain ⟨ns, hns⟩ := deserializeBody_of_no_tree (s := s.setOrigLen n) hhead hl1 hl hfit
    (allOk_of_le hfit (allOk_after_length hread hsrc))
    (fun tr hlegal heq => hno tr hlegal ⟨_, by rw [← heq, setOrigLen_mem, ← htake, List.take_append_drop]⟩)
  exact ⟨ns, by rw [hufDecompressBody_of_length hread hn hlt hsrc, hns, andThen_raised]⟩

end

theorem setOrigLen_origLen_toNat {n : Nat} (hlt : n < 2 ^ 32) (s : State) : (s.setOrigLen n).origLen.toNat = n := by
  rw [setOrigLen_origLen, BitVec.toNat_ofNat, Nat.mod_eq_of_lt hlt]

/-! ### After the tree (R812, R613) -/

/-- `s` with what R812 has written before it looks at the payload: ORIG_LEN, and the tree of `l` leaves in the window
`ns`. -/
def State.hufParsed (n : Nat) (ns : Nodes) (l : Nat) (s : State) : State := (s.setOrigLen n).setTree ns 0 l

/-- The result registers hold the length `n` and the tree `tr` of a container, its root at 0, and no code table. -/
structure HoldsHufParsed (n : Nat) (tr : Tree) (t : State) : Prop where
  orig : t.origLen.toNat = n
  tree : t.tree = some tr
  treeOk : t.treeOk = true
  leafCount : t.leafCount.toNat = tr.leaves.length
  root : t.root = 0#9
  treeValid : t.status.treeValid = true
  codesValid : t.status.codesValid = false

theorem HoldsHufParsed.of_keepsResults {n : Nat} {tr : Tree} {w t : State} (h : HoldsHufParsed n tr w)
    (hk : KeepsResults w t) : HoldsHufParsed n tr t := by
  obtain ⟨-, ⟨hnodes, hroot, hleaves, hcount⟩, -, ⟨htv, hcv⟩, horig, -⟩ := hk
  refine ⟨by rw [horig, h.orig], ?_, ?_, by rw [hleaves, h.leafCount], hroot.trans h.root, htv.trans h.treeValid,
    hcv.trans h.codesValid⟩
  · rw [State.tree, hnodes, hroot]
    exact h.tree
  · rw [State.treeOk, hnodes, hroot, hleaves, hcount]
    exact h.treeOk

theorem hufParsed_holds {n : Nat} {ns : Nodes} {tr : Tree} (hlt : n < 2 ^ 32) (hlegal : tr.legal)
    (hns : HoldsInPreorder ns tr) (s : State) : HoldsHufParsed n tr (s.hufParsed n ns tr.leaves.length) := by
  obtain ⟨-, htree, hok, hleaves, -⟩ := parsedInto_registers hlegal hns (s.setOrigLen n)
  exact ⟨setOrigLen_origLen_toNat hlt s, htree, hok, hleaves, rfl, rfl, rfl⟩

section
variable {s : State} {n : Nat} {tr : Tree} {B : List Byte} (hread : s.SrcReadable)
  (hsrc : s.src = be32 n ++ (ser tr.leaves.length tr ++ B))

include hsrc in
/-- Where the parts of a container stand: the serialization four bytes on, the stream right behind it. -/
theorem src_parts :
    s.srcN = 6 + treeBytes tr.leaves.length + B.length ∧
      s.mem.peek (s.srcA + 4) (2 + treeBytes tr.leaves.length) = ser tr.leaves.length tr ∧
      s.mem.peek (s.srcA + (6 + treeBytes tr.leaves.length)) B.length = B := by
  obtain ⟨hlen, hrest⟩ := src_after_length hsrc
  obtain ⟨-, hser, hstream⟩ := peek_eq_append hrest
  rw [List.length_append, ser_length] at hlen
  rw [ser_length] at hser hstream
  refine ⟨by omega, hser, ?_⟩
  rwa [show s.srcA + (6 + treeBytes tr.leaves.length) = s.srcA + 4 + (2 + treeBytes tr.leaves.length) by omega]

include hread hsrc in
theorem allOk_stream : allOk s.plat .read (s.srcA + (6 + treeBytes tr.leaves.length)) B.length = true := by
  have hall : allOk s.plat .read s.srcA s.srcN = true := hread
  rw [(src_parts hsrc).1, allOk_add, Bool.and_eq_true] at hall
  exact hall.2

include hread hsrc in
/-- R812: the tree of a container is parsed, and the payload comes next. -/
theorem hufDecompressBody_of_tree (hn : 0 < n) (hlt : n < 2 ^ 32) (hlegal : tr.legal) :
    ∃ ns, HoldsInPreorder ns tr ∧ hufDecompressBody s = hufPayload n (s.hufParsed n ns tr.leaves.length) := by
  obtain ⟨-, hser, -⟩ := src_parts hsrc
  have hlen : (ser tr.leaves.length tr ++ B).length = 2 + treeBytes tr.leaves.length + B.length := by
    rw [List.length_append, ser_length]
  have hok : allOk s.plat .read (s.srcA + 4) (2 + treeBytes tr.leaves.length) = true :=
    allOk_of_le (by omega) (allOk_after_length hread hsrc)
  obtain ⟨ns, hns, hbody⟩ := deserializeBody_of_ser (n := (ser tr.leaves.length tr ++ B).length)
    (s := s.setOrigLen n) hlegal (by omega) hok hser
  exact ⟨ns, hns, by rw [hufDecompressBody_of_length hread hn hlt hsrc, hbody, andThen_done, State.hufParsed]⟩

end

section
variable {s : State} {n : Nat} {tr : Tree} {B : List Byte} {ns : Nodes}
  (hsrc : s.src = be32 n ++ (ser tr.leaves.length tr ++ B))
include hsrc

/-- The payload window is the stream behind the tree. -/
theorem hufPayload_eq (hmax : tr.leaves.length ≤ 256) :
    hufPayload n (s.hufParsed n ns tr.leaves.length) =
      if B = [] then .raised .format 0 (s.hufParsed n ns tr.leaves.length)
      else if s.dstN < n then .raised .outOfSpace n (s.hufParsed n ns tr.leaves.length)
      else unpackBody (s.srcA + (6 + treeBytes tr.leaves.length)) B.length n (s.hufParsed n ns tr.leaves.length) := by
  have hcount : (s.hufParsed n ns tr.leaves.length).leafCount.toNat = tr.leaves.length :=
    setTree_leafCount_toNat ns hmax _
  have hstream : (s.hufParsed n ns tr.leaves.length).srcN - (6 + treeBytes tr.leaves.length) = B.length :=
    Nat.sub_eq_of_eq_add' (src_parts hsrc).1
  simp only [hufPayload, hcount, hstream, List.length_eq_zero_iff]
  rfl

theorem parsed_stream :
    (s.hufParsed n ns tr.leaves.length).mem.peek (s.srcA + (6 + treeBytes tr.leaves.length)) B.length = B := by
  obtain ⟨-, -, hstream⟩ := src_parts hsrc
  exact hstream

variable (hread : s.SrcReadable) (hlegal : tr.legal)
  (hholds : HoldsHufParsed n tr (s.hufParsed n ns tr.leaves.length))
include hread hlegal hholds

/-- R812: a stream of exactly `n` symbols is written. -/
theorem hufPayload_of_symbols {p : Bits} {bs : List Byte} (hp : unpack B = some p) (hsplits : tr.splits p bs [])
    (hn : bs.length = n) (hcap : n ≤ s.dstN) :
    hufPayload n (s.hufParsed n ns tr.leaves.length) = writeDst bs n (s.hufParsed n ns tr.leaves.length) := by
  have hB : B ≠ [] := fun hnil => by simp [hnil, unpack] at hp
  rw [← parsed_stream (ns := ns) hsrc] at hp
  rw [hufPayload_eq hsrc hlegal.1, if_neg hB, if_neg (Nat.not_lt.mpr hcap)]
  subst hn
  exact unpackBody_of_symbols hlegal.2 hholds.tree (allOk_stream hread hsrc) hp hsplits

/-- R712's order: each reason to refuse the stream is the first one that the pseudocode meets. -/
theorem hufPayload_of_refused {e : ErrCode} {len : Nat} {late : Bool} (hn : n ≠ 0)
    (h : StreamRefused tr n s.dstN B e len late) (hdst : e = .lengthMismatch → s.DstWritable s.dstN) :
    hufPayload n (s.hufParsed n ns tr.leaves.length) =
      .raised e len (if late = true then (s.hufParsed n ns tr.leaves.length).scrambleDst
        else s.hufParsed n ns tr.leaves.length) := by
  have hstream := parsed_stream (ns := ns) hsrc
  rw [hufPayload_eq hsrc hlegal.1]
  rcases h with ⟨rfl, rfl, rfl, hB⟩ | ⟨rfl, rfl, rfl, hB, hcap⟩ | ⟨rfl, rfl, rfl, hcap, hhead⟩ |
    ⟨rfl, rfl, hcap, p, bs, rest, hp, hsplits, hbad, rfl⟩
  · exact if_pos hB
  · rw [if_neg hB, if_pos hcap]
    rfl
  · have hB : B ≠ [] := fun hnil => by simp [hnil] at hhead
    rw [if_neg hB, if_neg (Nat.not_lt.mpr hcap)]
    exact unpackBody_of_zero_first n (allOk_stream hread hsrc) (by rwa [hstream])
  · have hB : B ≠ [] := fun hnil => by simp [hnil, unpack] at hp
    rw [if_neg hB, if_neg (Nat.not_lt.mpr hcap)]
    exact unpackBody_of_mismatch hlegal.2 hholds.tree (allOk_stream hread hsrc) (by rwa [hstream]) hsplits hn hbad
      ((hdst rfl).of_le hcap)

end

/-! ### How the command ends -/

/-- Settles O49: each clause is one way through the pseudocode. An exact stream is written (`hufPayload_of_symbols`,
`writeDst_completes`); the refusals raise over the state as it was, over ORIG_LEN, over the nodes parsed so far, or over the
container's tree (`hufParsed_holds`), and a raise keeps what it finds (`raised_failed_memAfterError`). -/
theorem hufDecompressRestoresInput : Obligations.HufDecompressRestoresInput := by
  unfold Obligations.HufDecompressRestoresInput
  intro s hm hd hw hread
  obtain ⟨-, hfits, -⟩ := (windowsOk_iff .hufDecompress s).mp hw
  have hexec := exec_hufDecompress hd hw
  refine ⟨fun tr bs B p hlegal hne hp hsplits hsrc hcap hdst => ?_, fun hshort => ?_, fun n rest hn hlt hsrc =>
    ⟨fun hbad => ?_, fun hl1 hl hfit hno => ?_, fun tr B e len late hlegal hrest hrefused hdst => ?_⟩⟩
  · have hlt : bs.length < 2 ^ 32 := Nat.lt_of_le_of_lt hcap s.latch.dstCap.isLt
    obtain ⟨ns, hns, hbody⟩ := hufDecompressBody_of_tree hread hsrc (List.length_pos_iff.mpr hne) hlt hlegal
    have hholds := hufParsed_holds hlt hlegal hns s
    obtain ⟨t, ht, hdone, hresult, hwrote, -, hkept⟩ :=
      writeDst_completes (s := s.hufParsed bs.length ns tr.leaves.length) hm (hfits rfl) hcap hdst
    rw [hbody, hufPayload_of_symbols hsrc hread hlegal hholds hp hsplits rfl hcap, ht] at hexec
    have h := hholds.of_keepsResults hkept
    exact ⟨t, hexec, hdone, hresult, hwrote, h.orig, h.tree, h.treeOk, h.leafCount, h.root, h.treeValid, h.codesValid,
      hufDecompress_keeps hexec⟩
  · rw [hexec, hufDecompressBody_of_no_length hread hshort]
    exact raised_failedClean .format 0 s
  · obtain ⟨t, ht, hfailed, -, ⟨-, htree, -, hflags, horig, -⟩, hmem⟩ :=
      raised_failedClean .corruptTree 0 (s.setOrigLen n)
    rw [hufDecompressBody_of_bad_header hread hn hlt hsrc hbad, ht] at hexec
    obtain ⟨hargs, hfreq, hcodes, hlzw⟩ := hufDecompress_keeps hexec
    exact ⟨t, hexec, hfailed, (congrArg _ horig).trans (setOrigLen_origLen_toNat hlt s), htree, hflags, hargs, hfreq,
      hcodes, hlzw, hmem⟩
  · obtain ⟨ns, hbody⟩ := hufDecompressBody_of_no_tree hread hn hlt hsrc hl1 hl hfit hno
    obtain ⟨t, ht, hfailed, -, ⟨-, ⟨-, hroot, hleaves, hcount⟩, -, ⟨htv, hcv⟩, horig, -⟩, hmem⟩ :=
      raised_failedClean .corruptTree 0 ((s.setOrigLen n).setNodes ns)
    rw [hbody, ht] at hexec
    obtain ⟨hargs, hfreq, hcodes, hlzw⟩ := hufDecompress_keeps hexec
    exact ⟨t, hexec, hfailed, (congrArg _ horig).trans (setOrigLen_origLen_toNat hlt s), htv, hcv, hroot, hleaves, hcount,
      hargs, hfreq, hcodes, hlzw, hmem⟩
  · subst hrest
    obtain ⟨ns, hns, hbody⟩ := hufDecompressBody_of_tree hread hsrc hn hlt hlegal
    have hholds := hufParsed_holds hlt hlegal hns s
    obtain ⟨t, ht, hfailed, -, hkept, hmem⟩ :=
      raised_failed_memAfterError (s := s.hufParsed n ns tr.leaves.length) hm (hfits rfl) e len late
    rw [hbody, hufPayload_of_refused hsrc hread hlegal hholds (Nat.ne_of_gt hn) hrefused hdst, ht] at hexec
    have h := hholds.of_keepsResults hkept
    obtain ⟨hargs, hfreq, hcodes, hlzw⟩ := hufDecompress_keeps hexec
    exact ⟨t, hexec, hfailed, h.orig, h.tree, h.treeOk, h.leafCount, h.root, h.treeValid, h.codesValid, hargs, hfreq,
      hcodes, hlzw, hmem⟩

/-- Settles O50: a run of HUF_COMPRESS without error has written the container of its input (`container_of_hufCompress`),
whose stream unpacks to the codes of the input (`unpack_pack`, `splits_payload`), so that O49 applies. -/
theorem huffmanRoundTrip : Obligations.HuffmanRoundTrip := by
  unfold Obligations.HuffmanRoundTrip
  intro s t u hm hd h h0 hum hud huw husrc huread hcap hdst
  obtain ⟨hn, tr, htr, hpeek⟩ := container_of_hufCompress hm hd h h0
  rw [hpeek, hufContainer, List.append_assoc] at husrc
  rw [← src_length s] at hcap hdst ⊢
  obtain ⟨hrestores, -⟩ := hufDecompressRestoresInput u hum hud huw huread
  obtain ⟨v, hv, hdone, hresult, hwrote, -⟩ := hrestores tr s.src (pack (tr.payload s.src)) (tr.payload s.src)
    (srcTree_legal hn htr) (src_ne_nil hn) (unpack_pack _) (splits_payload fun b => (mem_srcTree hn htr b).mpr) husrc
    hcap hdst
  exact ⟨v, hv, hdone, hresult, hwrote⟩

end Sys2Proof.Machine
end

section
/-! PROOF. The LZW encoder (R900, R901, R904): what a search of the dictionary answers, the patterns that the codes of an
encode name, and what it takes of the dictionary's room. -/

namespace Sys2Proof.Machine

/-! ### The dictionary (R900) -/

/-- The pattern is an entry of the dictionary. -/
def Dict.Has (d : Dict) (p : Pattern) : Prop := ∃ k, d.entry k = some p

/-- The dictionary with one entry more, under its size as the code. -/
def Dict.push (d : Dict) (p : Pattern) : Dict := { added := d.added ++ [p] }

theorem entry_eq_some_iff {d : Dict} {k : Nat} {p : Pattern} :
    d.entry k = some p ↔ k < 256 ∧ p = [BitVec.ofNat 8 k] ∨ 256 ≤ k ∧ d.added[k - 256]? = some p := by
  unfold Dict.entry
  by_cases hk : k < 256
  · simp [hk, eq_comm, Nat.not_le.mpr hk]
  · simp [hk, Nat.not_lt.mp hk]

theorem entry_eq_none_iff {d : Dict} {k : Nat} : d.entry k = none ↔ d.size ≤ k := by
  unfold Dict.entry Dict.size
  by_cases hk : k < 256
  · simp [hk]
    omega
  · simp [hk]
    omega

theorem lt_size_of_entry {d : Dict} {k : Nat} {p : Pattern} (h : d.entry k = some p) : k < d.size := by
  by_contra hle
  rw [entry_eq_none_iff.mpr (Nat.not_lt.mp hle)] at h
  cases h

theorem has_iff {d : Dict} {p : Pattern} : d.Has p ↔ (∃ b, p = [b]) ∨ p ∈ d.added := by
  simp only [Dict.Has, entry_eq_some_iff]
  constructor
  · rintro ⟨k, ⟨-, hp⟩ | ⟨-, hp⟩⟩
    · exact .inl ⟨_, hp⟩
    · exact .inr (List.mem_of_getElem? hp)
  · rintro (⟨b, rfl⟩ | hp)
    · exact ⟨b.toNat, .inl ⟨b.isLt, by simp⟩⟩
    · obtain ⟨i, hi⟩ := List.mem_iff_getElem?.mp hp
      exact ⟨256 + i, .inr ⟨Nat.le_add_right .., by rwa [Nat.add_sub_cancel_left]⟩⟩

theorem has_byte (d : Dict) (b : Byte) : d.Has [b] := has_iff.mpr (.inl ⟨b, rfl⟩)

theorem has_push_iff {d : Dict} {p q : Pattern} : (d.push p).Has q ↔ d.Has q ∨ q = p := by
  simp [has_iff, Dict.push, or_assoc]

@[simp] theorem push_size (d : Dict) (p : Pattern) : (d.push p).size = d.size + 1 := by
  simp [Dict.push, Dict.size, Nat.add_assoc]

theorem add_of_full {cap : Nat} {d : Dict} (p : Pattern) (h : d.size = cap) : d.add cap p = none := if_pos h

theorem add_of_room {cap : Nat} {d : Dict} (p : Pattern) (h : d.size ≠ cap) : d.add cap p = some (d.push p) := if_neg h

theorem add_eq_some {cap : Nat} {d d' : Dict} {p : Pattern} (h : d.add cap p = some d') : d' = d.push p := by
  obtain ⟨hroom, -⟩ := add_size h
  rw [add_of_room p hroom] at h
  exact (Option.some.inj h).symm

/-! ### The search (R901) -/

theorem findFrom_eq_some {p : Pattern} {qs : List Pattern} {k j : Nat} (h : findFrom p k qs = some j) :
    ∃ i, j = k + i ∧ qs[i]? = some p := by
  induction qs generalizing k with
  | nil => cases h
  | cons q qs ih =>
    rw [findFrom] at h
    split at h
    · next hq =>
      cases h
      exact ⟨0, rfl, by rw [hq]; rfl⟩
    · obtain ⟨i, rfl, hi⟩ := ih h
      exact ⟨i + 1, by omega, hi⟩

theorem not_mem_of_findFrom {p : Pattern} {qs : List Pattern} {k : Nat} (h : findFrom p k qs = none) : p ∉ qs := by
  induction qs generalizing k with
  | nil => simp
  | cons q qs ih =>
    rw [findFrom] at h
    split at h
    · cases h
    · next hq => exact List.not_mem_cons_of_ne_of_not_mem hq (ih h)

@[simp] theorem find_byte (d : Dict) (b : Byte) : d.find [b] = some b.toNat := rfl

theorem find_of_ne_byte {d : Dict} {p : Pattern} (h : ∀ b, p ≠ [b]) : d.find p = findFrom p 256 d.added := by
  rcases p with _ | ⟨a, _ | ⟨b, p⟩⟩
  · rfl
  · exact absurd rfl (h a)
  · rfl

theorem entry_of_find {d : Dict} {p : Pattern} {k : Nat} (h : d.find p = some k) : d.entry k = some p := by
  rw [entry_eq_some_iff]
  by_cases hp : ∃ b, p = [b]
  · obtain ⟨b, rfl⟩ := hp
    cases h
    exact .inl ⟨b.isLt, by simp⟩
  · rw [find_of_ne_byte (not_exists.mp hp)] at h
    obtain ⟨i, rfl, hi⟩ := findFrom_eq_some h
    exact .inr ⟨Nat.le_add_right .., by rwa [Nat.add_sub_cancel_left]⟩

theorem not_has_of_find {d : Dict} {p : Pattern} (h : d.find p = none) : ¬ d.Has p := by
  have hp : ∀ b, p ≠ [b] := by
    rintro b rfl
    cases h
  rw [find_of_ne_byte hp] at h
  rw [has_iff, not_or, not_exists]
  exact ⟨hp, not_mem_of_findFrom h⟩

/-- The code emitted for a pattern of the dictionary names it (R901, log 27). -/
theorem entry_codeFor {d : Dict} {p : Pattern} (h : d.Has p) : d.entry (d.codeFor p) = some p := by
  rw [Dict.codeFor]
  cases hf : d.find p with
  | none => exact absurd h (not_has_of_find hf)
  | some k => exact entry_of_find hf

/-! ### Every beginning of an entry is an entry -/

/-- A nonempty pattern is in the dictionary when one with a byte more is. -/
def Dict.Closed (d : Dict) : Prop := ∀ (p : Pattern) (c : Byte), p ≠ [] → d.Has (p ++ [c]) → d.Has p

theorem seed_closed : Dict.seed.Closed := by
  intro p c hp h
  rcases has_iff.mp h with ⟨b, hb⟩ | hmem
  · rcases List.append_eq_singleton_iff.mp hb with ⟨hnil, -⟩ | ⟨-, hc⟩
    · exact absurd hnil hp
    · cases hc
  · cases hmem

theorem Dict.Closed.push {d : Dict} (h : d.Closed) {p : Pattern} (hp : d.Has p) (cs : List Byte) (hcs : cs.length ≤ 1) :
    (d.push (p ++ cs)).Closed := by
  intro q c hq hhas
  rw [has_push_iff] at hhas ⊢
  refine .inl (hhas.elim (h q c hq) fun heq => ?_)
  rcases cs with _ | ⟨b, _ | ⟨b', cs⟩⟩
  · rw [List.append_nil] at heq
    exact h q c hq (heq ▸ hp)
  · rwa [(List.append_inj' heq rfl).1]
  · simp at hcs

theorem Dict.Closed.has_of_prefix {d : Dict} (h : d.Closed) {p q : Pattern} (hq : d.Has q) (hpre : p <+: q)
    (hp : p ≠ []) : d.Has p := by
  obtain ⟨t, rfl⟩ := hpre
  induction t using List.reverseRecOn with
  | nil => rwa [List.append_nil] at hq
  | append_singleton t c ih =>
    rw [← List.append_assoc] at hq
    exact ih (h _ c (by simp [hp]) hq)

/-! ### Greedy encodes (R901, R904) -/

/-- From the dictionary `d`, the codes `ks` name the patterns `ps` of the input in order and end in `d'`: each pattern but
the last is added with the byte that follows it, which made a pattern the dictionary did not hold. -/
inductive Greedy : Dict → List Nat → List Pattern → Dict → Prop where
  | last {d : Dict} {k : Nat} {p : Pattern} (hk : d.entry k = some p) (hp : p ≠ []) : Greedy d [k] [p] d
  | next {d d' : Dict} {k : Nat} {p q : Pattern} {ks : List Nat} {ps : List Pattern} (hk : d.entry k = some p)
      (hp : p ≠ []) (hnew : ¬ d.Has (p ++ q.take 1)) (hrest : Greedy (d.push (p ++ q.take 1)) ks (q :: ps) d') :
      Greedy d (k :: ks) (p :: q :: ps) d'

/-- R901's loop, from a current pattern that the dictionary holds. -/
theorem encodeLoop_greedy {cap : Nat} {bs : List Byte} {d d' : Dict} {w : Pattern} {ks : List Nat}
    (h : encodeLoop cap d w bs = some (ks, d')) (hw : d.Has w) (hne : w ≠ []) :
    ∃ p ps, Greedy d ks (p :: ps) d' ∧ p ≠ [] ∧ (p :: ps).flatten = w ++ bs := by
  induction bs generalizing d w ks with
  | nil =>
    cases h
    exact ⟨w, [], .last (entry_codeFor hw) hne, hne, by simp⟩
  | cons c cs ih =>
    rw [encodeLoop] at h
    split at h
    · next j hfind =>
      obtain ⟨p, ps, hgreedy, hp, hflat⟩ := ih h ⟨j, entry_of_find hfind⟩ (by simp)
      exact ⟨p, ps, hgreedy, hp, by simpa using hflat⟩
    · next hfind =>
      split at h
      · cases h
      · next d1 hadd =>
        obtain rfl := add_eq_some hadd
        split at h
        · cases h
        · next ks1 d2 hloop =>
          cases h
          obtain ⟨q, ps, hgreedy, hq, hflat⟩ := ih hloop (has_byte _ c) (by simp)
          obtain ⟨b, q, rfl⟩ := List.exists_cons_of_ne_nil hq
          obtain ⟨rfl, -⟩ := List.cons.inj hflat
          have hnew : ¬ d.Has (w ++ (b :: q).take 1) := not_has_of_find hfind
          exact ⟨w, _, .next (entry_codeFor hw) hne hnew hgreedy, hne, congrArg (w ++ ·) hflat⟩

/-- The first byte of the input is a pattern of the seeds. -/
theorem lzwEncode_cons (cap : Nat) (b : Byte) (bs : List Byte) :
    lzwEncode cap (b :: bs) = encodeLoop cap Dict.seed [b] bs := rfl

theorem lzwEncode_greedy {cap : Nat} {bs : List Byte} {ks : List Nat} {d : Dict} (hne : bs ≠ [])
    (h : lzwEncode cap bs = some (ks, d)) : ∃ ps, Greedy Dict.seed ks ps d ∧ ps.flatten = bs := by
  obtain ⟨b, bs, rfl⟩ := List.exists_cons_of_ne_nil hne
  rw [lzwEncode_cons] at h
  obtain ⟨p, ps, hgreedy, -, hflat⟩ := encodeLoop_greedy h (has_byte _ b) (by simp)
  exact ⟨p :: ps, hgreedy, hflat⟩

namespace Greedy

variable {d d' : Dict} {ks : List Nat} {ps : List Pattern}

theorem length_eq (h : Greedy d ks ps d') : ps.length = ks.length := by
  induction h with
  | last => rfl
  | next hk hp hnew hrest ih => exact congrArg Nat.succ ih

theorem codes_ne_nil (h : Greedy d ks ps d') : ks ≠ [] := by
  cases h <;> simp

theorem patterns_ne_nil (h : Greedy d ks ps d') : ∀ p ∈ ps, p ≠ [] := by
  induction h with
  | last hk hp => simpa using hp
  | next hk hp hnew hrest ih => exact List.forall_mem_cons.mpr ⟨hp, ih⟩

theorem length_le (h : Greedy d ks ps d') : ks.length ≤ ps.flatten.length := by
  induction h with
  | last hk hp => simpa [Nat.one_le_iff_ne_zero] using hp
  | next hk hp hnew hrest ih =>
    have hpos := List.length_pos_iff.mpr hp
    rw [List.flatten_cons, List.length_append, List.length_cons]
    omega

/-- R904: what the encode adds is what the patterns say. -/
theorem added_eq (h : Greedy d ks ps d') : d'.added = d.added ++ (dictOf ps).added := by
  induction h with
  | last => exact (List.append_nil _).symm
  | next hk hp hnew hrest ih => exact ih.trans (List.append_assoc ..)

theorem dictOf_eq (h : Greedy Dict.seed ks ps d') : dictOf ps = d' := by
  have hadded : d'.added = (dictOf ps).added := h.added_eq
  cases d'
  exact congrArg Dict.mk hadded.symm

/-- Behind the first `j` codes the encode is a greedy one still, in the dictionary of the first `j` entries added. -/
theorem drop (h : Greedy d ks ps d') (hclosed : d.Closed) {j : Nat} (hj : j < ks.length) :
    Dict.Closed { added := d'.added.take (d.added.length + j) } ∧
      Greedy { added := d'.added.take (d.added.length + j) } (ks.drop j) (ps.drop j) d' := by
  induction h generalizing j with
  | @last d k p hk hp =>
    obtain rfl : j = 0 := Nat.lt_one_iff.mp hj
    rw [Nat.add_zero, List.take_length]
    exact ⟨hclosed, .last hk hp⟩
  | @next d d' k p q ks ps hk hp hnew hrest ih =>
    cases j with
    | zero =>
      have htake : d'.added.take d.added.length = d.added := by
        rw [hrest.added_eq]
        simp [Dict.push]
      rw [Nat.add_zero, htake]
      exact ⟨hclosed, .next hk hp hnew hrest⟩
    | succ j =>
      have hlen : (d.push (p ++ q.take 1)).added.length + j = d.added.length + (j + 1) := by
        simp [Dict.push]
        omega
      have hpush := hclosed.push ⟨k, hk⟩ (q.take 1) (by simp)
      exact hlen ▸ ih hpush (Nat.lt_of_succ_lt_succ hj)

/-- The first code names the longest entry that the input begins with: with the next byte it was no entry. -/
theorem head {k : Nat} {p : Pattern} (h : Greedy d (k :: ks) (p :: ps) d') (hclosed : d.Closed) :
    p ≠ [] ∧ d.entry k = some p ∧ ∀ q, d.Has q → q <+: (p :: ps).flatten → q.length ≤ p.length := by
  cases h with
  | last hk hp => exact ⟨hp, hk, fun q _ hq => by simpa using hq.length_le⟩
  | @next _ _ _ _ q ks ps hk hp hnew hrest =>
    refine ⟨hp, hk, fun x hx hpre => ?_⟩
    by_contra hlong
    have hnext : p ++ q.take 1 <+: (p :: q :: ps).flatten :=
      List.prefix_append_right_inj p |>.mpr ((q.take_prefix 1).trans (List.prefix_append ..))
    have hshort : (p ++ q.take 1).length ≤ x.length := by
      rw [List.length_append, List.length_take]
      omega
    exact hnew (hclosed.has_of_prefix hx (List.prefix_of_prefix_length_le hnext hpre hshort) (by simp [hp]))

end Greedy

/-- What each code of an encode names, in the dictionary at the time it is emitted (R901). -/
theorem Greedy.code {ks : List Nat} {ps : List Pattern} {d : Dict} (h : Greedy Dict.seed ks ps d) {j k : Nat}
    {p : Pattern} (hk : ks[j]? = some k) (hp : ps[j]? = some p) :
    p ≠ [] ∧ Dict.entry { added := d.added.take j } k = some p ∧
      ∀ q, Dict.Has { added := d.added.take j } q → q <+: (ps.drop j).flatten → q.length ≤ p.length := by
  obtain ⟨hj, rfl⟩ := List.getElem?_eq_some_iff.mp hk
  obtain ⟨hj', rfl⟩ := List.getElem?_eq_some_iff.mp hp
  obtain ⟨hclosed, hrest⟩ := h.drop seed_closed hj
  have hzero : Dict.seed.added.length + j = j := Nat.zero_add j
  rw [hzero] at hclosed hrest
  rw [List.drop_eq_getElem_cons hj, List.drop_eq_getElem_cons hj'] at hrest
  rw [List.drop_eq_getElem_cons hj']
  exact hrest.head hclosed

/-- A code is below the size of the dictionary it was emitted from. -/
theorem Greedy.code_lt {ks : List Nat} {ps : List Pattern} {d : Dict} (h : Greedy Dict.seed ks ps d) {j k : Nat}
    (hk : ks[j]? = some k) : k < 256 + j := by
  obtain ⟨hj, -⟩ := List.getElem?_eq_some_iff.mp hk
  obtain ⟨-, hentry, -⟩ := h.code hk (List.getElem?_eq_getElem (h.length_eq ▸ hj))
  have hlt := lt_size_of_entry hentry
  have htake : (d.added.take j).length ≤ j := List.length_take_le ..
  exact Nat.lt_of_lt_of_le hlt (Nat.add_le_add_left htake 256)

theorem dictOf_size (ps : List Pattern) : (dictOf ps).size = 256 + (ps.length - 1) := by
  simp [dictOf, Dict.size]

/-! ### The room of the dictionary (R900, R1007) -/

/-- One encode whatever the room: it comes through where the dictionary it ends with has room. -/
theorem encodeLoop_eq_ite (d : Dict) (w : Pattern) (bs : List Byte) :
    ∃ ks d', d.size ≤ d'.size ∧ d'.size ≤ d.size + bs.length ∧
      ∀ cap, d.size ≤ cap → encodeLoop cap d w bs = if d'.size ≤ cap then some (ks, d') else none := by
  induction bs generalizing d w with
  | nil => exact ⟨[d.codeFor w], d, Nat.le_refl _, Nat.le_refl _, fun cap hcap => by rw [if_pos hcap, encodeLoop]⟩
  | cons c cs ih =>
    simp only [encodeLoop]
    cases hfind : d.find (w ++ [c]) with
    | some j =>
      obtain ⟨ks, d', hle, hle', hloop⟩ := ih d (w ++ [c])
      exact ⟨ks, d', hle, hle'.trans (Nat.le_succ _), hloop⟩
    | none =>
      obtain ⟨ks, d', hle, hle', hloop⟩ := ih (d.push (w ++ [c])) [c]
      rw [push_size] at hle hle' hloop
      refine ⟨d.codeFor w :: ks, d', by omega, by rw [List.length_cons]; omega, fun cap hcap => ?_⟩
      by_cases hfull : d.size = cap
      · rw [add_of_full _ hfull, if_neg (by omega)]
      · rw [add_of_room _ hfull]
        simp only [hloop cap (by omega)]
        by_cases hroom : d'.size ≤ cap
        · simp only [if_pos hroom]
        · simp only [if_neg hroom]

theorem lzwEncode_eq_ite (bs : List Byte) :
    ∃ ks d, d.size ≤ 256 + bs.length ∧
      ∀ cap, 256 ≤ cap → lzwEncode cap bs = if d.size ≤ cap then some (ks, d) else none := by
  obtain ⟨ks, d, -, hle, hloop⟩ := encodeLoop_eq_ite Dict.seed [] bs
  exact ⟨ks, d, hle, hloop⟩

theorem lzwEncode_size_le {cap : Nat} {bs : List Byte} {ks : List Nat} {d : Dict} (hcap : 256 ≤ cap)
    (h : lzwEncode cap bs = some (ks, d)) : d.size ≤ cap := by
  obtain ⟨ks', d', -, hencode⟩ := lzwEncode_eq_ite bs
  rw [hencode cap hcap, Option.ite_none_right_eq_some] at h
  obtain ⟨hroom, heq⟩ := h
  cases heq
  exact hroom

/-- Settles O51: an encode is greedy (`lzwEncode_greedy`), which fixes its counts and what each code names
(`Greedy.code`); and it is the same encode for every room that suffices (`lzwEncode_eq_ite`). -/
theorem lzwEncoderCounts : Obligations.LzwEncoderCounts := by
  unfold Obligations.LzwEncoderCounts
  refine ⟨fun cap bs ks d hne h => ?_, fun bs _ => ?_⟩
  · obtain ⟨ps, hgreedy, rfl⟩ := lzwEncode_greedy hne h
    have hpos := List.length_pos_iff.mpr hgreedy.codes_ne_nil
    have hsize : d.size = 256 + ks.length - 1 := by
      rw [← hgreedy.dictOf_eq, dictOf_size, hgreedy.length_eq]
      omega
    refine ⟨hpos, hgreedy.length_le, hsize, fun j k => hgreedy.code_lt, ps, hgreedy.length_eq, rfl,
      hgreedy.dictOf_eq.symm, fun j k p hk hp => ?_⟩
    obtain ⟨hp0, hentry, hlongest⟩ := hgreedy.code hk hp
    exact ⟨hp0, hentry, fun k' q hq => hlongest q ⟨k', hq⟩⟩
  · obtain ⟨ks, d, hle, hencode⟩ := lzwEncode_eq_ite bs
    exact ⟨ks, d, by rw [hencode _ (Nat.le_add_right ..), if_pos hle], hencode⟩

end Sys2Proof.Machine
end

section
/-! PROOF. LZW_COMPRESS (R902, R903, R905): the codes of an input and their width, the container it then writes or refuses,
and what the four result registers hold at its end. -/

namespace Sys2Proof.Machine

/-! ### The largest code and the width (R902, R903) -/

theorem maxOf_append (ks : List Nat) (k : Nat) : maxOf (ks ++ [k]) = max (maxOf ks) k := by simp [maxOf]

theorem maxOf_lt_iff {n : Nat} (hn : 0 < n) (ks : List Nat) : maxOf ks < n ↔ ∀ k ∈ ks, k < n := by
  induction ks using List.reverseRecOn with
  | nil => simpa [maxOf] using hn
  | append_singleton ks k ih => simp [maxOf_append, ih, forall_and, or_imp]

theorem le_maxOf {ks : List Nat} {k : Nat} (hk : k ∈ ks) : k ≤ maxOf ks :=
  Nat.le_of_lt_succ ((maxOf_lt_iff (Nat.succ_pos _) ks).mp (Nat.lt_succ_self _) k hk)

theorem one_le_widthFor (mx : Nat) : 1 ≤ widthFor mx := Nat.le_max_left ..

/-- A largest code of `n` bits has a width of at most `n`. -/
theorem widthFor_le {mx n : Nat} (hn : 1 ≤ n) (h : mx < 2 ^ n) : widthFor mx ≤ n :=
  Nat.max_le.mpr ⟨hn, (bitlen_le_iff mx n).mpr h⟩

/-- Every code fits the width (R903). -/
theorem lt_of_mem_of_widthFor {ks : List Nat} {k : Nat} (hk : k ∈ ks) : k < 2 ^ widthFor (maxOf ks) :=
  Nat.lt_of_le_of_lt (le_maxOf hk) ((bitlen_le_iff _ _).mp (Nat.le_max_right ..))

/-! ### The container (R210) -/

theorem flatMap_bin_length (w : Nat) (ks : List Nat) : (ks.flatMap (bin w)).length = ks.length * w := by
  simp [List.length_flatMap]

theorem lzwBytes_length (w : Nat) (ks : List Nat) : (lzwBytes w ks).length = lzwLen ks.length w := by
  rw [lzwBytes, List.length_cons, pack_length, flatMap_bin_length, lzwLen, Nat.add_comm]

/-- R902: pass 2 writes the container of the codes. -/
theorem lzwContainer_eq_lzwBytes (w : Nat) {ks : List Nat} (h : ks ≠ []) : lzwContainer w ks = lzwBytes w ks := by
  have hlen : (ks.map (bin w)).flatten.length = ks.length * w := by rw [← List.flatMap_def, flatMap_bin_length]
  rw [lzwContainer, packChunks_eq_pack hlen (by simpa using h), ← List.flatMap_def, lzwBytes]

/-! ### The four result registers (R67 to R70) -/

/-- CODE_WIDTH, MAX_CODE, CODE_COUNT and DICT_SIZE hold these numbers. -/
structure HoldsLzw (width mx count size : Nat) (t : State) : Prop where
  width : t.codeWidth.toNat = width
  mx : t.maxCode.toNat = mx
  count : t.codeCount.toNat = count
  size : t.dictSize.toNat = size

theorem setLzw_holds {width mx count size : Nat} (hwidth : width < 2 ^ 5) (hmx : mx < 2 ^ 32) (hcount : count < 2 ^ 32)
    (hsize : size < 2 ^ 32) (s : State) : HoldsLzw width mx count size (s.setLzw width mx count size) :=
  ⟨Nat.mod_eq_of_lt hwidth, Nat.mod_eq_of_lt hmx, Nat.mod_eq_of_lt hcount, Nat.mod_eq_of_lt hsize⟩

theorem HoldsLzw.of_keepsResults {width mx count size : Nat} {w t : State} (h : HoldsLzw width mx count size w)
    (hk : KeepsResults w t) : HoldsLzw width mx count size t := by
  obtain ⟨-, -, -, -, -, hwidth, hmx, hsize, hcount⟩ := hk
  exact ⟨by rw [hwidth, h.width], by rw [hmx, h.mx], by rw [hcount, h.count], by rw [hsize, h.size]⟩

/-- Two states whose four registers hold the same numbers. -/
theorem HoldsLzw.keepsLzw {width mx count size : Nat} {s t : State} (hs : HoldsLzw width mx count size s)
    (ht : HoldsLzw width mx count size t) : KeepsLzw s t :=
  ⟨BitVec.eq_of_toNat_eq (ht.width.trans hs.width.symm), BitVec.eq_of_toNat_eq (ht.mx.trans hs.mx.symm),
    BitVec.eq_of_toNat_eq (ht.size.trans hs.size.symm), BitVec.eq_of_toNat_eq (ht.count.trans hs.count.symm)⟩

/-- An LZW command names the four registers only (R71). -/
theorem lzw_keeps {i : Instr} {s t : State} (h : exec i s = .next t) (hi : outputsOf i = outputsOf .lzwCompress) :
    KeepsArgs s t ∧ KeepsFreq s t ∧ KeepsTree s t ∧ KeepsCodes s t ∧ KeepsFlags s t ∧ KeepsOrig s t := by
  have hkeeps := exec_keepsBut h
  rw [hi] at hkeeps
  obtain ⟨htree, hvalid⟩ := hkeeps.tree rfl
  exact ⟨hkeeps.args, hkeeps.freq rfl, htree, hkeeps.codes rfl, ⟨hvalid, hkeeps.codesValid rfl rfl⟩, hkeeps.orig rfl⟩

/-- R7: the room of the dictionary. -/
theorem lzwDictMax_range {p : Platform} (h : p.wf = true) : 257 ≤ p.lzwDictMax ∧ p.lzwDictMax ≤ 2 ^ 31 := by
  simp only [Platform.wf, Bool.and_eq_true, decide_eq_true_eq] at h
  obtain ⟨⟨hrange, -⟩, -⟩ := h
  exact hrange

/-! ### The codes of an input -/

/-- `s` with what R902 has written after pass 1: the four registers. -/
def State.lzwCounted (ks : List Nat) (d : Dict) (s : State) : State :=
  s.setLzw (widthFor (maxOf ks)) (maxOf ks) ks.length d.size

section
variable {cap : Nat} {bs : List Byte} {ks : List Nat} {d : Dict} (hcap : 257 ≤ cap) (hne : bs ≠ [])
  (h : lzwEncode cap bs = some (ks, d))
include hcap hne h

/-- R904: the number of codes and the codes themselves stay below the size, and the size within the room. -/
theorem lzwEncode_bounds : ks ≠ [] ∧ ks.length ≤ d.size ∧ maxOf ks < d.size ∧ d.size ≤ cap := by
  obtain ⟨ps, hgreedy, -⟩ := lzwEncode_greedy hne h
  have hpos := List.length_pos_iff.mpr hgreedy.codes_ne_nil
  have hsize : d.size = 256 + (ks.length - 1) := by rw [← hgreedy.dictOf_eq, dictOf_size, hgreedy.length_eq]
  refine ⟨hgreedy.codes_ne_nil, by omega, (maxOf_lt_iff (by omega) ks).mpr fun k hk => ?_,
    lzwEncode_size_le (by omega) h⟩
  obtain ⟨j, hj⟩ := List.mem_iff_getElem?.mp hk
  obtain ⟨hlt, -⟩ := List.getElem?_eq_some_iff.mp hj
  have hcode := hgreedy.code_lt hj
  omega

variable (hmax : cap ≤ 2 ^ 31)
include hmax

theorem lzwEncode_width_le : widthFor (maxOf ks) ≤ 31 := by
  obtain ⟨-, -, hmx, hsize⟩ := lzwEncode_bounds hcap hne h
  exact widthFor_le (by decide) (by omega)

/-- R902: pass 1 leaves the counts of the encode in the four registers. -/
theorem lzwCounted_holds (s : State) :
    HoldsLzw (widthFor (maxOf ks)) (maxOf ks) ks.length d.size (s.lzwCounted ks d) := by
  obtain ⟨-, hcount, hmx, hsize⟩ := lzwEncode_bounds hcap hne h
  have hwidth := lzwEncode_width_le hcap hne h hmax
  exact setLzw_holds (by omega) (by omega) (by omega) (by omega) s

end

/-! ### The pseudocode (R902) -/

theorem exec_lzwCompress {s : State} (hd : s.disturbed = false) (hw : windowsOk .lzwCompress s = true) :
    exec .lzwCompress s = (lzwCompressBody s).finish := windowed_run hd hw

theorem lzwCompressBody_of_empty {s : State} (hn : s.srcN = 0) : lzwCompressBody s = .raised .emptyInput 0 s := if_pos hn

/-- R1007: pass 1 finds the dictionary full. -/
theorem lzwCompressBody_of_limit {s : State} (hn : s.srcN ≠ 0) (hread : s.SrcReadable)
    (h : lzwEncode s.plat.lzwDictMax s.src = none) : lzwCompressBody s = .raised .limit 0 s := by
  rw [State.src] at h
  rw [lzwCompressBody, if_neg hn, readable_of_allOk hread, h]

/-- R902: after pass 1 the container's length decides: refused for no gain (R905), refused for no room, or written. -/
theorem lzwCompressBody_of_encode {s : State} {ks : List Nat} {d : Dict} {out : List Byte} (hn : s.srcN ≠ 0)
    (hread : s.SrcReadable) (h : lzwEncode s.plat.lzwDictMax s.src = some (ks, d))
    (hout : lzwBytes (widthFor (maxOf ks)) ks = out) :
    lzwCompressBody s =
      if s.latch.nogainEn = true ∧ s.srcN ≤ out.length then .raised .noGain out.length (s.lzwCounted ks d)
      else if s.dstN < out.length then .raised .outOfSpace out.length (s.lzwCounted ks d)
      else writeDst out out.length (s.lzwCounted ks d) := by
  have hks : ks ≠ [] := encodeLoop_codes_ne_nil h
  have hlen := lzwBytes_length (widthFor (maxOf ks)) ks
  have hall : allOk s.plat .read s.srcA s.srcN = true := hread
  rw [hout] at hlen
  rw [State.src] at h
  rw [lzwCompressBody, if_neg hn, readable_of_allOk hread, h]
  dsimp only
  rw [if_neg (by simp [hall]), lzwWrite]
  simp only [Bool.and_eq_true, decide_eq_true_eq]
  rw [← hlen, lzwContainer_eq_lzwBytes _ hks, hout]
  rfl

/-! ### How the command ends -/

/-- LZW_COMPRESS of an input that has an encode, whose container gains, fits and can be written. -/
theorem exec_lzwCompress_of_encode {s : State} {ks : List Nat} {d : Dict} (hm : s.mem.wf = true) (hp : s.plat.wf = true)
    (hd : s.disturbed = false) (hw : windowsOk .lzwCompress s = true) (hn : s.srcN ≠ 0) (hread : s.SrcReadable)
    (h : lzwEncode s.plat.lzwDictMax s.src = some (ks, d)) {out : List Byte}
    (hout : lzwBytes (widthFor (maxOf ks)) ks = out) (hgain : s.latch.nogainEn = false ∨ out.length < s.srcN)
    (hcap : out.length ≤ s.dstN) (hdst : s.DstWritable out.length) :
    ∃ t, exec .lzwCompress s = .next t ∧ Completed s t ∧ t.resultLen.toNat = out.length ∧ WroteDst out s t ∧
      HoldsLzw (widthFor (maxOf ks)) (maxOf ks) ks.length d.size t := by
  obtain ⟨-, hfits, -⟩ := (windowsOk_iff .lzwCompress s).mp hw
  obtain ⟨hmin, hmax⟩ := lzwDictMax_range hp
  obtain ⟨t, ht, hdone, hresult, hwrote, -, hkept⟩ :=
    writeDst_completes (s := s.lzwCounted ks d) hm (hfits rfl) hcap hdst
  refine ⟨t, ?_, hdone, hresult, hwrote, (lzwCounted_holds hmin (src_ne_nil hn) h hmax s).of_keepsResults hkept⟩
  rw [exec_lzwCompress hd hw, lzwCompressBody_of_encode hn hread h hout, if_neg (gains_iff.mp hgain),
    if_neg (Nat.not_lt.mpr hcap), ht]

/-- Settles O52: the run that `exec_lzwCompress_of_encode` describes; its other registers are no outputs of the command
(`lzw_keeps`). -/
theorem lzwCompressWritesContainer : Obligations.LzwCompressWritesContainer := by
  unfold Obligations.LzwCompressWritesContainer
  intro s ks d hm hp hd hw hn hread h hgain hcap hdst
  obtain ⟨t, ht, hdone, hresult, hwrote, hheld⟩ :=
    exec_lzwCompress_of_encode hm hp hd hw hn hread h rfl hgain hcap hdst
  refine ⟨t, ht, hdone, hresult, hresult.trans (lzwBytes_length ..), hwrote, hheld.width, ?_, hheld.mx, hheld.count,
    hheld.size, lzw_keeps ht rfl⟩
  rw [hheld.width]
  exact fun k hk => lt_of_mem_of_widthFor hk

/-- Settles O53: an empty input and a full dictionary raise over the state as it was; the two refusals of the container
raise over the registers of pass 1 (`lzwCounted_holds`), which a raise keeps (`raised_failedClean`). -/
theorem lzwCompressRefusals : Obligations.LzwCompressRefusals := by
  unfold Obligations.LzwCompressRefusals
  intro s hp hd hw
  have hexec := exec_lzwCompress hd hw
  refine ⟨fun hn => ?_, fun hn hread h => ?_, fun ks d e hn hread h hrefused => ?_⟩
  · rw [hexec, lzwCompressBody_of_empty hn]
    exact raised_failedClean .emptyInput 0 s
  · rw [hexec, lzwCompressBody_of_limit hn hread h]
    exact raised_failedClean .limit 0 s
  · obtain ⟨hmin, hmax⟩ := lzwDictMax_range hp
    have hbody : lzwCompressBody s =
        .raised e (lzwBytes (widthFor (maxOf ks)) ks).length (s.lzwCounted ks d) := by
      rw [lzwCompressBody_of_encode hn hread h rfl]
      rcases hrefused with ⟨rfl, hgain⟩ | ⟨rfl, hgain, hcap⟩
      · exact if_pos hgain
      · exact (if_neg (gains_iff.mp hgain)).trans (if_pos hcap)
    obtain ⟨t, ht, hfailed, -, hkept, hmem⟩ :=
      raised_failedClean e (lzwBytes (widthFor (maxOf ks)) ks).length (s.lzwCounted ks d)
    rw [hbody, ht] at hexec
    have hheld := (lzwCounted_holds hmin (src_ne_nil hn) h hmax s).of_keepsResults hkept
    obtain ⟨hargs, hfreq, htree, hcodes, hflags, horig⟩ := lzw_keeps hexec rfl
    exact ⟨t, hexec, hfailed, hheld.width, hheld.mx, hheld.count, hheld.size, hargs, hfreq, htree, hcodes, hflags, horig,
      hmem⟩

/-! ### The container that was written -/

/-- The pseudocode runs to its last line only over a readable input with an encode, whose container gains, fits and can be
written. -/
theorem lzwCompressBody_done {s v : State} (h : lzwCompressBody s = .done v) :
    s.srcN ≠ 0 ∧ s.SrcReadable ∧ ∃ ks d out, lzwEncode s.plat.lzwDictMax s.src = some (ks, d) ∧
      lzwBytes (widthFor (maxOf ks)) ks = out ∧ (s.latch.nogainEn = false ∨ out.length < s.srcN) ∧
      out.length ≤ s.dstN ∧ s.DstWritable out.length := by
  have hn : s.srcN ≠ 0 := fun hn => by cases (lzwCompressBody_of_empty hn).symm.trans h
  have hread : s.SrcReadable := by
    rw [lzwCompressBody, if_neg hn] at h
    split at h
    · cases h
    · rw [ite_raised_eq_done] at h
      obtain ⟨hall, -⟩ := h
      simpa [State.SrcReadable] using hall
  cases hencode : lzwEncode s.plat.lzwDictMax s.src with
  | none => cases (lzwCompressBody_of_limit hn hread hencode).symm.trans h
  | some q =>
    obtain ⟨ks, d⟩ := q
    rw [lzwCompressBody_of_encode hn hread hencode rfl, ite_raised_eq_done, ite_raised_eq_done] at h
    obtain ⟨hgain, hcap, hwrite⟩ := h
    refine ⟨hn, hread, ks, d, _, rfl, rfl, gains_iff.mpr hgain, Nat.not_lt.mp hcap, ?_⟩
    rcases writeDst_cases (lzwBytes (widthFor (maxOf ks)) ks) (lzwBytes (widthFor (maxOf ks)) ks).length
      (s.lzwCounted ks d) with ⟨hok, -⟩ | ⟨-, hrefused⟩
    · exact hok
    · cases hrefused.symm.trans hwrite

/-- A run without error had a nonempty input, has written the container of its codes, and left their counts. -/
theorem container_of_lzwCompress {s t : State} (hm : s.mem.wf = true) (hp : s.plat.wf = true) (hd : s.disturbed = false)
    (h : exec .lzwCompress s = .next t) (h0 : t.status.ecode = 0#4) :
    s.srcN ≠ 0 ∧ ∃ ks d, lzwEncode s.plat.lzwDictMax s.src = some (ks, d) ∧
      t.mem.peek s.dstA t.resultLen.toNat = lzwBytes (widthFor (maxOf ks)) ks ∧
      HoldsLzw (widthFor (maxOf ks)) (maxOf ks) ks.length d.size t := by
  rcases exec_next h with ⟨hdist, -⟩ | rfl | ⟨hw, hbody⟩
  · exact absurd (hd.symm.trans hdist) Bool.false_ne_true
  · cases h0
  · obtain ⟨v, hv, -⟩ := finish_completed hbody h0
    obtain ⟨hn, hread, ks, d, out, hencode, hout, hgain, hcap, hdst⟩ := lzwCompressBody_done hv
    obtain ⟨u, hu, -, hresult, ⟨hwrote, -⟩, hheld⟩ :=
      exec_lzwCompress_of_encode hm hp hd hw hn hread hencode hout hgain hcap hdst
    cases h.symm.trans hu
    exact ⟨hn, ks, d, hencode, by rw [hresult, hwrote, hout], hheld⟩

end Sys2Proof.Machine
end

section
/-! PROOF. The LZW decoder (R910, R911, R913): the dictionary that patterns in order leave, one round of R912's loop for a
code that stands for its pattern or is refused, and the codes of an encode. -/

namespace Sys2Proof.Machine

/-! ### The dictionary of the patterns so far (R910, R913) -/

theorem dictOf_append {ps : List Pattern} {q : Pattern} (h : ps.getLast? = some q) (p : Pattern) :
    dictOf (ps ++ [p]) = (dictOf ps).push (q ++ p.take 1) := by
  induction ps with
  | nil => cases h
  | cons a ps ih =>
    cases ps with
    | nil =>
      cases h
      rfl
    | cons b ps =>
      rw [List.getLast?_cons_cons] at h
      have hadded := congrArg Dict.added (ih h)
      exact congrArg (fun qs => Dict.mk ((a ++ b.take 1) :: qs)) hadded

theorem dictOf_take (ps : List Pattern) (j : Nat) :
    dictOf (ps.take j) = { added := (dictOf ps).added.take (j - 1) } := by
  induction ps generalizing j with
  | nil => simp [dictOf]
  | cons a ps ih =>
    rcases j with _ | _ | j
    · rfl
    · rfl
    · cases ps with
      | nil => simp [dictOf]
      | cons b ps =>
        have hadded := congrArg Dict.added (ih (j + 1))
        exact congrArg (fun qs => Dict.mk ((a ++ b.take 1) :: qs)) hadded

/-- What a code stands for (R910, R911). -/
theorem patternFor_eq_some_iff {d : Dict} {prev : Option Pattern} {k : Nat} {p : Pattern} :
    patternFor d prev k = some p ↔
      d.entry k = some p ∨ k = d.size ∧ ∃ q, prev = some q ∧ p = q ++ q.take 1 := by
  unfold patternFor
  cases hk : d.entry k with
  | some e =>
    have hne : k ≠ d.size := Nat.ne_of_lt (lt_size_of_entry hk)
    simp [hne]
  | none => cases prev <;> simp [eq_comm]

/-- A code beyond the one being defined, or the one being defined without a pattern before it (R1004). -/
theorem patternFor_eq_none {d : Dict} {prev : Option Pattern} {k : Nat}
    (h : d.size < k ∨ k = d.size ∧ prev = none) : patternFor d prev k = none := by
  refine Option.eq_none_iff_forall_ne_some.mpr fun p hp => ?_
  rcases patternFor_eq_some_iff.mp hp with hk | ⟨hk, q, hq, -⟩
  · have hlt := lt_size_of_entry hk
    omega
  · rcases h with hlt | ⟨-, hnone⟩
    · omega
    · cases hq.symm.trans hnone

/-- Once there is a pattern, every code up to the one being defined stands for one. -/
theorem patternFor_isSome {d : Dict} {q : Pattern} {k : Nat} (h : k ≤ d.size) :
    ∃ p, patternFor d (some q) k = some p := by
  cases hk : d.entry k with
  | some e => exact ⟨e, patternFor_eq_some_iff.mpr (.inl hk)⟩
  | none =>
    have hsize : k = d.size := Nat.le_antisymm h (entry_eq_none_iff.mp hk)
    exact ⟨_, patternFor_eq_some_iff.mpr (.inr ⟨hsize, q, rfl, rfl⟩)⟩

/-! ### Codes that stand for patterns -/

theorem DecodesTo.length_eq {cap : Nat} {ks : List Nat} {ps : List Pattern} (h : DecodesTo cap ks ps) :
    ps.length = ks.length := h.1

/-- Codes stand for patterns one by one: the last one is read in the dictionary of those before it. -/
theorem decodesTo_append_iff {cap : Nat} {ks : List Nat} {ps : List Pattern} {k : Nat} {p : Pattern} :
    DecodesTo cap (ks ++ [k]) (ps ++ [p]) ↔
      DecodesTo cap ks ps ∧ (dictOf (ps ++ [p])).size ≤ cap ∧ patternFor (dictOf ps) ps.getLast? k = some p := by
  simp only [DecodesTo, ← patternFor_eq_some_iff, List.length_append, List.length_singleton, Nat.add_right_cancel_iff]
  constructor
  · rintro ⟨hlen, hsize, hcodes⟩
    have hgrown : (dictOf ps).size ≤ (dictOf (ps ++ [p])).size := by
      simp only [dictOf_size, List.length_append, List.length_singleton]
      omega
    refine ⟨⟨hlen, hgrown.trans hsize, fun j c x hc hx => ?_⟩, hsize, ?_⟩
    · obtain ⟨hj, -⟩ := List.getElem?_eq_some_iff.mp hx
      have hat := hcodes j c x (List.getElem?_append_left (hlen ▸ hj) ▸ hc) (List.getElem?_append_left hj ▸ hx)
      rwa [List.take_append_of_le_length (Nat.le_of_lt hj)] at hat
    · have hat := hcodes ps.length k p (by simp [hlen]) (by simp)
      rwa [List.take_left' rfl] at hat
  · rintro ⟨⟨hlen, -, hcodes⟩, hsize, hlast⟩
    refine ⟨hlen, hsize, fun j c x hc hx => ?_⟩
    rcases Nat.lt_trichotomy j ps.length with hj | rfl | hj
    · rw [List.getElem?_append_left (hlen ▸ hj)] at hc
      rw [List.getElem?_append_left hj] at hx
      rw [List.take_append_of_le_length (Nat.le_of_lt hj)]
      exact hcodes j c x hc hx
    · obtain rfl : k = c := by simpa [hlen] using hc
      obtain rfl : p = x := by simpa using hx
      rwa [List.take_left' rfl]
    · rw [List.getElem?_eq_none (by simp; omega)] at hx
      cases hx

/-- The first code is a byte's, so that there are bytes to write as soon as there is a pattern. -/
theorem DecodesTo.flatten_eq_nil_iff {cap : Nat} {ks : List Nat} {ps : List Pattern} (h : DecodesTo cap ks ps) :
    ps.flatten = [] ↔ ps = [] := by
  refine ⟨fun hflat => ?_, fun hnil => by rw [hnil]; rfl⟩
  obtain ⟨hlen, -, hcodes⟩ := h
  rcases ps with _ | ⟨p, ps⟩
  · rfl
  rcases ks with _ | ⟨k, ks⟩
  · cases hlen
  obtain rfl : p = [] := List.flatten_eq_nil_iff.mp hflat p List.mem_cons_self
  rcases hcodes 0 k [] rfl rfl with hk | ⟨-, q, hq, -⟩
  · rcases entry_eq_some_iff.mp hk with ⟨-, hp⟩ | ⟨-, hp⟩ <;> cases hp
  · cases hq

/-- The entry after the `i`-th pattern, where the next pattern is the entry itself, ends in its own first byte. -/
theorem entry_of_next_pattern {ps : List Pattern} {i : Nat} {p : Pattern} (hget : (dictOf ps).added[i]? = some p)
    (hnext : ps[i + 1]? = some p) (hne : ∀ q ∈ ps, q ≠ []) :
    ∃ q, (ps.take (i + 1)).getLast? = some q ∧ p = q ++ q.take 1 := by
  obtain ⟨q, x, hq, hx, rfl⟩ := List.getElem?_zipWith_eq_some.mp hget
  rw [List.getElem?_tail, hnext] at hx
  obtain ⟨b, q, rfl⟩ := List.exists_cons_of_ne_nil (hne q (List.mem_of_getElem? hq))
  have hfirst : x.take 1 = [b] := by
    rw [← Option.some.inj hx]
    rfl
  exact ⟨b :: q, by simp [List.take_add_one, hq], by rw [hfirst]; rfl⟩

/-- R913: the codes of an encode stand for its patterns. A code's entry is the decoder's too, or the one the decoder is
about to define (`entry_of_next_pattern`). -/
theorem Greedy.decodesTo {cap : Nat} {ks : List Nat} {ps : List Pattern} {d : Dict} (h : Greedy Dict.seed ks ps d)
    (hcap : d.size ≤ cap) : DecodesTo cap ks ps := by
  refine ⟨h.length_eq, by rwa [h.dictOf_eq], fun j k p hk hp => ?_⟩
  obtain ⟨hj, -⟩ := List.getElem?_eq_some_iff.mp hp
  obtain ⟨-, hentry, -⟩ := h.code hk hp
  rcases entry_eq_some_iff.mp hentry with ⟨hbyte, rfl⟩ | ⟨hadded, hget⟩
  · exact .inl (entry_eq_some_iff.mpr (.inl ⟨hbyte, rfl⟩))
  obtain ⟨i, rfl⟩ := Nat.exists_eq_add_of_le hadded
  rw [Nat.add_sub_cancel_left, List.getElem?_take, Option.ite_none_right_eq_some, ← h.dictOf_eq] at hget
  obtain ⟨hij, hget⟩ := hget
  rcases Nat.lt_or_eq_of_le (Nat.succ_le_of_lt hij) with hlt | rfl
  · refine .inl (entry_eq_some_iff.mpr (.inr ⟨hadded, ?_⟩))
    rw [dictOf_take, Nat.add_sub_cancel_left, List.getElem?_take, if_pos (by omega), hget]
  · refine .inr ⟨?_, entry_of_next_pattern hget hp h.patterns_ne_nil⟩
    rw [dictOf_size, List.length_take_of_le (Nat.le_of_lt hj), Nat.succ_sub_one]

/-! ### One round of R912's loop -/

/-- Where the loop stands once the codes `ks` have been read and their patterns `ps` written. -/
def LzwRun.reached (ks : List Nat) (ps : List Pattern) : LzwRun :=
  { dict := dictOf ps, prev := ps.getLast?, out := ps.flatten, count := ks.length, mx := maxOf ks,
    size := (dictOf ps).size }

theorem LzwRun.start_eq_reached : LzwRun.start = LzwRun.reached [] [] := rfl

section
variable {ks : List Nat} {ps : List Pattern} {k : Nat} {x : Pattern}

/-- R910: a code that stands for a pattern, with room for the entry it adds. -/
theorem lzwStep_of_decodes {cap : Nat} (h : DecodesTo cap (ks ++ [k]) (ps ++ [x])) :
    lzwStep cap (dictOf ps) ps.getLast? k = .ok (x, dictOf (ps ++ [x])) := by
  obtain ⟨-, hsize, hfor⟩ := decodesTo_append_iff.mp h
  rw [lzwStep, hfor]
  cases hlast : ps.getLast? with
  | none =>
    obtain rfl := List.getLast?_eq_none_iff.mp hlast
    rfl
  | some q =>
    rw [dictOf_append hlast] at hsize ⊢
    rw [push_size] at hsize
    simp only [add_of_room (q ++ x.take 1) (Nat.ne_of_lt (Nat.lt_of_succ_le hsize))]

theorem flatten_append_length (ps : List Pattern) (x : Pattern) :
    (ps ++ [x]).flatten.length = ps.flatten.length + x.length := by simp

variable {p : Platform} {dstA dstN : Nat}

/-- A code whose pattern fits DST is counted and its pattern written. -/
theorem lzwRound_of_decodes (h : DecodesTo p.lzwDictMax (ks ++ [k]) (ps ++ [x]))
    (hroom : (ps ++ [x]).flatten.length ≤ dstN) (hw : allOk p .write dstA (ps ++ [x]).flatten.length = true) :
    lzwRound p dstA dstN (.reached ks ps) k = .complete (.reached (ks ++ [k]) (ps ++ [x])) := by
  rw [flatten_append_length] at hroom hw
  rw [allOk_add, Bool.and_eq_true] at hw
  obtain ⟨-, hw⟩ := hw
  simp only [lzwRound, LzwRun.reached, lzwStep_of_decodes h, if_neg (Nat.not_lt.mpr hroom), hw]
  simp [maxOf_append]

/-- R911, R912: a code that is refused is counted, its pattern not written; the error is late once there is a pattern. -/
theorem lzwRound_of_refused {e : ErrCode} {size : Nat} (h : DecodesTo p.lzwDictMax ks ps)
    (hrefused : CodeRefused p.lzwDictMax dstN ks ps k e size) :
    ∃ r, lzwRound p dstA dstN (.reached ks ps) k = .failed e (!ps.isEmpty) r ∧ r.count = ks.length + 1 ∧
      r.mx = maxOf (ks ++ [k]) ∧ r.size = size := by
  have hlate : ps.flatten.isEmpty = ps.isEmpty := by
    rw [Bool.eq_iff_iff, List.isEmpty_iff, List.isEmpty_iff, h.flatten_eq_nil_iff]
  rw [maxOf_append]
  rcases hrefused with ⟨rfl, rfl, hno⟩ | ⟨rfl, rfl, hne, hk, hfull⟩ | ⟨rfl, x, hx, rfl, hroom⟩
  · have hnone : patternFor (dictOf ps) ps.getLast? k = none :=
      patternFor_eq_none (hno.imp_right fun ⟨hk, hnil⟩ => ⟨hk, by rw [hnil]; rfl⟩)
    simp only [lzwRound, LzwRun.reached, lzwStep, hnone, hlate]
    exact ⟨_, rfl, rfl, rfl, rfl⟩
  · obtain ⟨q, hq⟩ := Option.ne_none_iff_exists'.mp (mt List.getLast?_eq_none_iff.mp hne)
    obtain ⟨x, hx⟩ := patternFor_isSome (q := q) hk
    simp only [lzwRound, LzwRun.reached, lzwStep, hq, hx, add_of_full _ hfull, hlate]
    exact ⟨_, rfl, rfl, rfl, rfl⟩
  · rw [flatten_append_length] at hroom
    simp only [lzwRound, LzwRun.reached, lzwStep_of_decodes hx, if_pos hroom, hlate]
    exact ⟨_, rfl, rfl, rfl, rfl⟩

end

/-! ### R912's loop -/

/-- One turn of the loop, over bits that begin with a code. -/
theorem decodeLoop_bin {p : Platform} {a w dstA dstN q k : Nat} (hread : codeReadable p a q w = true) (hk : k < 2 ^ w)
    (n : Nat) (bits : Bits) (r : LzwRun) :
    (∀ r1, lzwRound p dstA dstN r k = .complete r1 →
      decodeLoop p a w dstA dstN (n + 1) q (bin w k ++ bits) r = decodeLoop p a w dstA dstN n (q + w) bits r1) ∧
    ∀ e late r1, lzwRound p dstA dstN r k = .failed e late r1 →
      decodeLoop p a w dstA dstN (n + 1) q (bin w k ++ bits) r = .failed e late r1 := by
  have htake : (bin w k ++ bits).take w = bin w k := List.take_left' (bin_length w k)
  have hdrop : (bin w k ++ bits).drop w = bits := List.drop_left' (bin_length w k)
  rw [decodeLoop, if_neg (by simp [hread]), htake, hdrop, uint_bin_of_lt hk]
  constructor
  · intro r1 h
    rw [h]
  · intro e late r1 h
    rw [h]

/-- Where all the codes are accepted, so is the one behind the first `m`. -/
theorem codeReadable_of_bitsReadable {p : Platform} {a w q m n : Nat} (hw : 0 < w)
    (h : BitsReadable p a q (q + (m + (n + 1)) * w)) : codeReadable p a (q + m * w) w = true := by
  have hsplit : (m + (n + 1)) * w = m * w + w + n * w := by ring
  exact (codeReadable_iff hw).mpr fun j hlo hhi => h j (by omega) (by omega)

/-- Codes that stand for patterns that fit DST are read and their patterns written, and the loop goes on behind them. -/
theorem decodeLoop_of_decodes {p : Platform} {a w dstA dstN q : Nat} (hw : 0 < w) {ks : List Nat} {ps : List Pattern}
    (h : DecodesTo p.lzwDictMax ks ps) (hks : ∀ k ∈ ks, k < 2 ^ w) (hroom : ps.flatten.length ≤ dstN)
    (hwrite : allOk p .write dstA ps.flatten.length = true) {n : Nat}
    (hread : BitsReadable p a q (q + (ks.length + n) * w)) (bits : Bits) :
    decodeLoop p a w dstA dstN (ks.length + n) q (ks.flatMap (bin w) ++ bits) .start =
      decodeLoop p a w dstA dstN n (q + ks.length * w) bits (.reached ks ps) := by
  induction ks using List.reverseRecOn generalizing ps n bits with
  | nil =>
    obtain rfl : ps = [] := List.length_eq_zero_iff.mp h.length_eq
    simp [LzwRun.start_eq_reached]
  | append_singleton ks k ih =>
    have hne : ps ≠ [] := fun hnil => by simpa [hnil] using h.length_eq
    obtain ⟨ps, x, rfl⟩ := List.eq_nil_or_concat' ps |>.resolve_left hne
    obtain ⟨hbefore, -, -⟩ := decodesTo_append_iff.mp h
    have hround := lzwRound_of_decodes h hroom hwrite
    rw [flatten_append_length] at hroom hwrite
    obtain ⟨hksb, hk⟩ : (∀ c ∈ ks, c < 2 ^ w) ∧ k < 2 ^ w := by simpa [or_imp, forall_and] using hks
    have hcount : (ks ++ [k]).length + n = ks.length + (n + 1) := by simp; omega
    have hbits : (ks ++ [k]).flatMap (bin w) ++ bits = ks.flatMap (bin w) ++ (bin w k ++ bits) := by simp
    have hq : q + (ks ++ [k]).length * w = q + ks.length * w + w := by simp; ring
    rw [hcount] at hread
    obtain ⟨hturn, -⟩ := decodeLoop_bin (codeReadable_of_bitsReadable hw hread) hk n bits (dstA := dstA) (dstN := dstN)
      (.reached ks ps)
    rw [hcount, hbits, hq, ih hbefore hksb (by omega) (allOk_of_le (by omega) hwrite) hread,
      hturn _ hround]

end Sys2Proof.Machine
end

section
/-! PROOF. LZW_DECOMPRESS (R911, R912, R914): how its pseudocode takes a container apart, how it ends over one, and that it
restores what LZW_COMPRESS wrote. -/

namespace Sys2Proof.Machine

theorem exec_lzwDecompress {s : State} (hd : s.disturbed = false) (hw : windowsOk .lzwDecompress s = true) :
    exec .lzwDecompress s = (lzwDecompressBody s).finish := windowed_run hd hw

/-! ### The parts of a container (R210, R912) -/

theorem beNat_singleton (b : Byte) : beNat [b] = b.toNat := by simp [beNat]

theorem lzwDecompressBody_of_short {s : State} (hn : s.srcN < 2) : lzwDecompressBody s = .raised .format 0 s := if_pos hn

section
variable {s : State} {h b : Byte} {B : List Byte} (hsrc : s.src = h :: b :: B)
include hsrc

/-- The header byte stands first, the stream behind it. -/
theorem container_parts :
    s.srcN = B.length + 2 ∧ s.mem.peek s.srcA 1 = [h] ∧ s.mem.peek (s.srcA + 1) 1 = [b] ∧
      s.mem.peek (s.srcA + 1) (s.srcN - 1) = b :: B := by
  obtain ⟨hlen, hhead, hstream⟩ := peek_eq_append (xs := [h]) hsrc
  obtain ⟨-, hfirst, -⟩ := peek_eq_append (xs := [b]) hstream
  have hn : s.srcN = B.length + 2 := hlen.trans (Nat.add_comm 1 (B.length + 1))
  refine ⟨hn, hhead, hfirst, ?_⟩
  rw [hn]
  exact hstream

/-- R912's loop reads the payload of the stream. -/
theorem lzwLoop_eq (w k : Nat) :
    s.lzwLoop w (leadingZeros b) k =
      decodeLoop s.plat (s.srcA + 1) w s.dstA s.dstN k (leadingZeros b + 1) (payloadBits (b :: B)) .start := by
  obtain ⟨-, -, -, hstream⟩ := container_parts hsrc
  rw [State.lzwLoop, hstream]
  rfl

variable (hread : s.SrcReadable)
include hread

/-- R912 over a header byte and a stream: a width out of range, a stream that does not unpack, and a payload that is no
sequence of codes are refused; otherwise the codes are read. -/
theorem lzwDecompressBody_eq :
    lzwDecompressBody s =
      if 32 ≤ h.toNat ∨ h.toNat = 0 then .raised .format 0 s
      else (unpack (b :: B)).elim (.raised .format 0 s) fun p =>
        if p = [] ∨ p.length % h.toNat ≠ 0 then .raised .format 0 s
        else lzwPayload h.toNat (leadingZeros b) (p.length / h.toNat) s := by
  obtain ⟨hn, hhead, hfirst, -⟩ := container_parts hsrc
  have hall : allOk s.plat .read s.srcA (1 + (B.length + 1)) = true := by
    rwa [State.SrcReadable, hn, show B.length + 2 = 1 + (B.length + 1) by omega] at hread
  rw [allOk_add, Bool.and_eq_true] at hall
  obtain ⟨hread0, hread1⟩ := hall
  rw [lzwDecompressBody, if_neg (by omega), memRead_of_allOk hread0, hhead]
  dsimp only
  rw [beNat_singleton]
  by_cases hbig : 32 ≤ h.toNat
  · rw [if_pos (by omega), if_pos (.inl hbig)]
  rw [if_neg (by omega), Nat.mod_eq_of_lt (Nat.not_le.mp hbig)]
  by_cases hzero : h.toNat = 0
  · rw [if_pos hzero, if_pos (.inr hzero)]
  rw [if_neg hzero, if_neg (not_or.mpr ⟨hbig, hzero⟩), memRead_of_allOk (allOk_of_le (by omega) hread1), hfirst]
  dsimp only
  rw [beNat_singleton]
  by_cases hb : b = 0#8
  · rw [hb]
    rfl
  have hb0 : b.toNat ≠ 0 := fun h0 => hb (BitVec.eq_of_toNat_eq h0)
  have hlen : 8 * (s.srcN - 1) - (8 - bitlen b.toNat) - 1 = (payloadBits (b :: B)).length := by
    rw [payloadBits, List.length_drop, bitsOf_length, List.length_cons, hn, leadingZeros]
    omega
  rw [if_neg hb0, unpack, if_neg hb, Option.elim_some, hlen]
  simp only [List.length_eq_zero_iff]
  rfl

theorem payload_readable (hb : b ≠ 0#8) :
    BitsReadable s.plat (s.srcA + 1) (leadingZeros b + 1) (leadingZeros b + 1 + (payloadBits (b :: B)).length) := by
  obtain ⟨hn, -⟩ := container_parts hsrc
  have hz := leadingZeros_le_seven hb
  obtain ⟨-, -, hbits⟩ := (container_reads (p := s.plat) (a := s.srcA) (n := s.srcN) hz (by omega)).mp hread
  rw [payloadBits, List.length_drop, bitsOf_length, List.length_cons]
  exact fun j hlo hhi => hbits j hlo (by omega)

end

/-- R1006: what is no container changes nothing. -/
theorem lzwDecompressBody_of_format {s : State} (hread : s.SrcReadable)
    (hbad : s.srcN < 2 ∨
      (∃ h B, s.src = h :: B ∧
        (32 ≤ h.toNat ∨ h = 0#8 ∨ unpack B = none ∨
          ∃ p, unpack B = some p ∧ (p = [] ∨ p.length % h.toNat ≠ 0)))) :
    lzwDecompressBody s = .raised .format 0 s := by
  by_cases hn : s.srcN < 2
  · exact lzwDecompressBody_of_short hn
  obtain ⟨h, B, hsrc, hwhy⟩ := hbad.resolve_left hn
  rcases B with _ | ⟨b, B⟩
  · have hlen := src_length s
    rw [hsrc, List.length_singleton] at hlen
    omega
  rw [lzwDecompressBody_eq hsrc hread]
  by_cases hwidth : 32 ≤ h.toNat ∨ h.toNat = 0
  · exact if_pos hwidth
  rw [if_neg hwidth]
  rcases hwhy with hbig | rfl | hnone | ⟨p, hp, hno⟩
  · exact absurd (.inl hbig) hwidth
  · exact absurd (.inr rfl) hwidth
  · rw [hnone]
    rfl
  · rw [hp]
    exact if_pos hno

/-- R912 over the container of codes at a width that holds them: the loop reads them one by one, all bytes accepted. -/
theorem lzwDecompressBody_of_codes {s : State} (hread : s.SrcReadable) {w : Nat} {ks : List Nat} (hw1 : 1 ≤ w)
    (hw : w ≤ 31) (hne : ks ≠ []) (hsrc : s.src = lzwBytes w ks) :
    ∃ z, lzwDecompressBody s = lzwPayload w z ks.length s ∧
      s.lzwLoop w z ks.length =
        decodeLoop s.plat (s.srcA + 1) w s.dstA s.dstN ks.length (z + 1) (ks.flatMap (bin w)) .start ∧
      BitsReadable s.plat (s.srcA + 1) (z + 1) (z + 1 + ks.length * w) := by
  have hunpack := unpack_pack (ks.flatMap (bin w))
  rw [lzwBytes] at hsrc
  generalize pack (ks.flatMap (bin w)) = stream at hsrc hunpack
  rcases stream with _ | ⟨b, B⟩
  · cases hunpack
  have hwidth : (BitVec.ofNat 8 w).toNat = w := Nat.mod_eq_of_lt (by omega)
  have hlen := flatMap_bin_length w ks
  have hpos := Nat.mul_pos (List.length_pos_iff.mpr hne) hw1
  have hcodes : ks.flatMap (bin w) ≠ [] := List.ne_nil_of_length_pos (hlen ▸ hpos)
  have hbody := lzwDecompressBody_eq hsrc hread
  rw [hwidth, if_neg (by omega), hunpack, Option.elim_some, hlen, Nat.mul_mod_left, if_neg (by simp [hcodes]),
    Nat.mul_div_cancel _ hw1] at hbody
  rw [unpack, Option.ite_none_left_eq_some] at hunpack
  obtain ⟨hb, hpayload⟩ := hunpack
  have hpayload := Option.some.inj hpayload
  refine ⟨leadingZeros b, hbody, ?_, ?_⟩
  · rw [lzwLoop_eq hsrc, hpayload]
  · have hbits := payload_readable hsrc hread hb
    rwa [hpayload, hlen] at hbits

/-! ### How the command ends -/

/-- The numbers that the codes read so far leave fit their registers. -/
theorem DecodesTo.length_le_size {cap : Nat} {ks : List Nat} {ps : List Pattern} (h : DecodesTo cap ks ps) :
    ks.length ≤ (dictOf ps).size ∧ (dictOf ps).size ≤ cap := by
  obtain ⟨hlen, hsize, -⟩ := h
  refine ⟨?_, hsize⟩
  rw [dictOf_size]
  omega

theorem maxOf_lt_of_width {w : Nat} {ks : List Nat} (hw : w ≤ 31) (hks : ∀ k ∈ ks, k < 2 ^ w) : maxOf ks < 2 ^ 31 :=
  Nat.lt_of_lt_of_le ((maxOf_lt_iff (Nat.two_pow_pos w) ks).mpr hks) (Nat.pow_le_pow_right (by decide) hw)

/-- LZW_DECOMPRESS of codes that stand for patterns which fit the writable DST window. -/
theorem exec_lzwDecompress_of_decodes {s : State} (hm : s.mem.wf = true) (hp : s.plat.wf = true)
    (hd : s.disturbed = false) (hwin : windowsOk .lzwDecompress s = true) (hread : s.SrcReadable) {ks : List Nat}
    {ps : List Pattern} {w : Nat} (hne : ks ≠ []) (h : DecodesTo s.plat.lzwDictMax ks ps) (hw1 : 1 ≤ w) (hw : w ≤ 31)
    (hks : ∀ k ∈ ks, k < 2 ^ w) (hsrc : s.src = lzwBytes w ks) (hcap : ps.flatten.length ≤ s.dstN)
    (hdst : s.DstWritable ps.flatten.length) :
    ∃ t, exec .lzwDecompress s = .next t ∧ Completed s t ∧ t.resultLen.toNat = ps.flatten.length ∧
      WroteDst ps.flatten s t ∧ HoldsLzw w (maxOf ks) ks.length (dictOf ps).size t := by
  obtain ⟨-, hfits, -⟩ := (windowsOk_iff .lzwDecompress s).mp hwin
  obtain ⟨z, hbody, hloop, hbits⟩ := lzwDecompressBody_of_codes hread hw1 hw hne hsrc
  have hrun := decodeLoop_of_decodes (n := 0) hw1 h hks hcap hdst hbits []
  rw [List.append_nil] at hrun
  have hcomplete : s.lzwLoop w z ks.length = .complete (.reached ks ps) := hloop.trans hrun
  obtain ⟨-, hmax⟩ := lzwDictMax_range hp
  obtain ⟨hcount, hsize⟩ := h.length_le_size
  have hmx := maxOf_lt_of_width hw hks
  obtain ⟨t, ht, hdone, hresult, hwrote, -, hkept⟩ :=
    writeDst_completes (s := s.setLzw w (maxOf ks) ks.length (dictOf ps).size) hm (hfits rfl) hcap hdst
  refine ⟨t, ?_, hdone, hresult, hwrote, HoldsLzw.of_keepsResults
    (setLzw_holds (by omega) (by omega) (by omega) (by omega) s) hkept⟩
  rw [exec_lzwDecompress hd hwin, hbody, lzwPayload_of_complete hcomplete]
  exact ht

theorem CodeRefused.size_le {cap dstN : Nat} {pre : List Nat} {ps : List Pattern} {k : Nat} {e : ErrCode} {size : Nat}
    (hrefused : CodeRefused cap dstN pre ps k e size) (h : DecodesTo cap pre ps) : size ≤ cap := by
  obtain ⟨-, hsize⟩ := h.length_le_size
  rcases hrefused with ⟨-, rfl, -⟩ | ⟨-, rfl, -⟩ | ⟨-, x, hx, rfl, -⟩
  · exact hsize
  · exact hsize
  · obtain ⟨-, hgrown⟩ := hx.length_le_size
    exact hgrown

/-- LZW_DECOMPRESS of codes that stand for patterns which fit the writable DST window, and then one that is refused. -/
theorem exec_lzwDecompress_of_refused {s : State} (hm : s.mem.wf = true) (hp : s.plat.wf = true)
    (hd : s.disturbed = false) (hwin : windowsOk .lzwDecompress s = true) (hread : s.SrcReadable) {w k size : Nat}
    {pre post : List Nat} {ps : List Pattern} {e : ErrCode} (hw1 : 1 ≤ w) (hw : w ≤ 31)
    (hks : ∀ c ∈ pre ++ k :: post, c < 2 ^ w) (hsrc : s.src = lzwBytes w (pre ++ k :: post))
    (hdst : s.DstWritable s.dstN) (h : DecodesTo s.plat.lzwDictMax pre ps) (hcap : ps.flatten.length ≤ s.dstN)
    (hrefused : CodeRefused s.plat.lzwDictMax s.dstN pre ps k e size) :
    ∃ t, exec .lzwDecompress s = .next t ∧ Failed e 0 s t ∧ HoldsLzw w (maxOf (pre ++ [k])) (pre.length + 1) size t ∧
      MemAfterError (!ps.isEmpty) s t := by
  obtain ⟨-, hfits, -⟩ := (windowsOk_iff .lzwDecompress s).mp hwin
  obtain ⟨z, hbody, hloop, hbits⟩ := lzwDecompressBody_of_codes hread hw1 hw (by simp) hsrc
  obtain ⟨hpre, hk, -⟩ : (∀ c ∈ pre, c < 2 ^ w) ∧ k < 2 ^ w ∧ ∀ c ∈ post, c < 2 ^ w := by
    simpa [or_imp, forall_and] using hks
  have hlen : (pre ++ k :: post).length = pre.length + (post.length + 1) := by simp
  have hflat : (pre ++ k :: post).flatMap (bin w) = pre.flatMap (bin w) ++ (bin w k ++ post.flatMap (bin w)) := by simp
  rw [hlen] at hbits
  obtain ⟨-, hturn⟩ := decodeLoop_bin (codeReadable_of_bitsReadable hw1 hbits) hk post.length
    (post.flatMap (bin w)) (dstA := s.dstA) (dstN := s.dstN) (.reached pre ps)
  obtain ⟨r, hround, hcount, hmx, hsize⟩ := lzwRound_of_refused (dstA := s.dstA) h hrefused
  have hfailed : s.lzwLoop w z (pre ++ k :: post).length = .failed e (!ps.isEmpty) r := by
    rw [hloop, hlen, hflat, decodeLoop_of_decodes hw1 h hpre hcap (hdst.of_le hcap) hbits]
    exact hturn _ _ _ hround
  obtain ⟨-, hmax⟩ := lzwDictMax_range hp
  obtain ⟨hcodes, hbefore⟩ := h.length_le_size
  have hsizeLe := hrefused.size_le h
  have hmxLt := maxOf_lt_of_width (ks := pre ++ [k]) hw (by simpa [or_imp, forall_and] using ⟨hpre, hk⟩)
  obtain ⟨t, ht, hend, -, hkept, hmem⟩ :=
    raised_failed_memAfterError (s := s.setLzw w r.mx r.count r.size) hm (hfits rfl) e 0 (!ps.isEmpty)
  rw [← hcount, ← hmx, ← hsize]
  refine ⟨t, ?_, hend, HoldsLzw.of_keepsResults
    (setLzw_holds (by omega) (by omega) (by omega) (by omega) s) hkept, hmem⟩
  rw [exec_lzwDecompress hd hwin, hbody, lzwPayload_of_failed hfailed, raiseAt_eq, ht]

/-- R913: the codes of an encode stand for patterns that make up its input, and leave its dictionary. -/
theorem decodesTo_of_lzwEncode {cap : Nat} {bs : List Byte} {ks : List Nat} {d : Dict} (hcap : 257 ≤ cap) (hne : bs ≠ [])
    (h : lzwEncode cap bs = some (ks, d)) : ∃ ps, DecodesTo cap ks ps ∧ ps.flatten = bs ∧ dictOf ps = d := by
  obtain ⟨ps, hgreedy, hflat⟩ := lzwEncode_greedy hne h
  exact ⟨ps, hgreedy.decodesTo (lzwEncode_size_le (by omega) h), hflat, hgreedy.dictOf_eq⟩

/-- Settles O54: codes that stand for patterns are decoded (`exec_lzwDecompress_of_decodes`), those of an encode are such
codes (`decodesTo_of_lzwEncode`), what is no container raises over the state as it was, and a code that is refused ends the
loop (`exec_lzwDecompress_of_refused`). -/
theorem lzwDecompressRestoresInput : Obligations.LzwDecompressRestoresInput := by
  unfold Obligations.LzwDecompressRestoresInput
  intro s hm hp hd hwin hread
  refine ⟨fun ks ps w hne h hw1 hw hks hsrc hcap hdst => ?_, fun bs ks d hne h => ?_, fun hbad => ?_,
    fun w k pre post ps e size hw1 hw hks hsrc hdst h hcap hrefused => ?_⟩
  · obtain ⟨t, ht, hdone, hresult, hwrote, hheld⟩ :=
      exec_lzwDecompress_of_decodes hm hp hd hwin hread hne h hw1 hw hks hsrc hcap hdst
    exact ⟨t, ht, hdone, hresult, hwrote, hheld.width, hheld.mx, hheld.count, hheld.size, lzw_keeps ht rfl⟩
  · obtain ⟨hmin, -⟩ := lzwDictMax_range hp
    exact decodesTo_of_lzwEncode hmin hne h
  · rw [exec_lzwDecompress hd hwin, lzwDecompressBody_of_format hread hbad]
    exact raised_failedClean .format 0 s
  · obtain ⟨t, ht, hfailed, hheld, hmem⟩ :=
      exec_lzwDecompress_of_refused hm hp hd hwin hread hw1 hw hks hsrc hdst h hcap hrefused
    obtain ⟨hargs, hfreq, htree, hcodes, hflags, horig⟩ := lzw_keeps ht rfl
    exact ⟨t, ht, hfailed, hheld.width, hheld.count, hheld.mx, hheld.size, hargs, hfreq, htree, hcodes, hflags, horig,
      hmem⟩

/-- Settles O55: a run of LZW_COMPRESS without error has written the container of its codes and left their counts
(`container_of_lzwCompress`); the codes stand for patterns that make up the input (`decodesTo_of_lzwEncode`), so that
LZW_DECOMPRESS decodes them. -/
theorem lzwRoundTrip : Obligations.LzwRoundTrip := by
  unfold Obligations.LzwRoundTrip
  intro s t u hm hp hd h h0 hum hup hud huw hsame husrc huread hcap hdst
  obtain ⟨hn, ks, d, hencode, hpeek, hheld⟩ := container_of_lzwCompress hm hp hd h h0
  obtain ⟨hmin, hmax⟩ := lzwDictMax_range hp
  have hne : s.src ≠ [] := src_ne_nil hn
  obtain ⟨hks, -⟩ := lzwEncode_bounds hmin hne hencode
  obtain ⟨ps, hdecodes, hflat, rfl⟩ := decodesTo_of_lzwEncode hmin hne hencode
  rw [hpeek] at husrc
  rw [← src_length s, ← hflat] at hcap hdst ⊢
  obtain ⟨v, hv, hdone, hresult, hwrote, hheld'⟩ := exec_lzwDecompress_of_decodes hum hup hud huw huread hks
    (hsame ▸ hdecodes) (one_le_widthFor _) (lzwEncode_width_le hmin hne hencode hmax)
    (fun k hk => lt_of_mem_of_widthFor hk) husrc hcap hdst
  exact ⟨v, hv, hdone, hresult, hwrote, hheld.keepsLzw hheld'⟩

end Sys2Proof.Machine
end

section
/-! PROOF. The prerequisites of the component commands (R1012), the host's accesses to the windows of a running command
(R164, R1104, R1112), a command that they have disturbed (R1113), and reset (R1100 to R1102). -/

namespace Sys2Proof.Machine

/-! ### A missing tree or code table (R1012) -/

/-- An undisturbed command whose windows pass the checks runs its pseudocode (R304). -/
theorem exec_of_windowsOk {i : Instr} {s : State} (hd : s.disturbed = false) (hw : windowsOk i s = true) :
    exec i s = (bodyOf i s).finish := by
  rw [exec_eq, windowed_run hd hw, ite_self]

/-- The first line of each of the four pseudocodes, without the table it reads. -/
theorem bodyOf_of_missing {i : Instr} {s : State}
    (h : i ∈ [Instr.treeSerialize, .codeGen, .bitUnpack] ∧ s.status.treeValid = false ∨
      i = .bitPack ∧ s.status.codesValid = false) : bodyOf i s = .raised .sequence 0 s := by
  rcases h with ⟨hi, htree⟩ | ⟨rfl, hcodes⟩
  · simp only [List.mem_cons, List.not_mem_nil, or_false] at hi
    rcases hi with rfl | rfl | rfl <;> exact if_pos htree
  · exact if_pos hcodes

/-- Settles O34: the pseudocode raises at its first line (`bodyOf_of_missing`), over the state as it was
(`raised_failedClean`). -/
theorem missingPrerequisiteIsSequenceError : Obligations.MissingPrerequisiteIsSequenceError := by
  unfold Obligations.MissingPrerequisiteIsSequenceError
  intro i s hd hw hmissing
  rw [exec_of_windowsOk hd hw, bodyOf_of_missing hmissing]
  exact raised_failedClean .sequence 0 s

/-! ### The windows of the running command (R202, R1113) -/

theorem inDst_iff {i : Instr} {s : State} {a : Nat} :
    inDst i s a = true ↔ usesDst i = true ∧ s.dstA ≤ a ∧ a < s.dstA + s.dstN := by
  simp [inDst, inWindow]

theorem command_eq_some_iff {s : State} {i : Instr} : s.command = some i ↔ decode s.latch.cmd = .ok i := by
  unfold State.command
  cases decode s.latch.cmd with
  | ok j => simp
  | error e => simp

theorem runningHas_iff {sel : Instr → State → Nat → Bool} {s : State} {a : Nat} :
    s.runningHas sel a = true ↔ s.status.busy = true ∧ ∃ i, decode s.latch.cmd = .ok i ∧ sel i s a = true := by
  simp only [← command_eq_some_iff]
  unfold State.runningHas
  cases s.status.busy with
  | false => simp
  | true => cases s.command <;> simp

/-! ### The host's loads and stores (R164, R1104, R1112) -/

theorem hostLoad_of_runningDst {s : State} {a : Nat} (h : s.runningHas inDst a = true) :
    s.hostLoad a = { s with rdata := BitVec.setWidth 32 (Config.freeValue s.draw 0 8), draw := s.draw + 1 } :=
  if_pos h

theorem hostLoad_of_stored {s : State} {a : Nat} (h : ¬ s.runningHas inDst a = true) :
    s.hostLoad a = { s with rdata := BitVec.setWidth 32 (s.mem.read a) } := if_neg h

/-- Settles O18: a store writes one byte (`read_write_self`, `read_write_ne`), a load reads as the running command's DST
window says, and the mark and that window are those of `runningHas_iff`. -/
theorem hostStoreIntoRunningWindow : Obligations.HostStoreIntoRunningWindow := by
  unfold Obligations.HostStoreIntoRunningWindow
  intro s a b
  simp only [← runningHas_iff]
  refine ⟨fun hm ha => ?_, fun ha => ?_, fun ha => ?_⟩
  · exact ⟨s.hostStore a b, if_pos ha, read_write_self b hm, fun _ => read_write_ne b,
      by rw [hostStore_disturbed, Bool.or_eq_true], rfl⟩
  · have hload : hostStep (.memLoad a) s = .next (s.hostLoad a) := if_pos ha
    exact ⟨fun h => by rw [hload, hostLoad_of_runningDst h], fun h => by rw [hload, hostLoad_of_stored h]⟩
  · exact ⟨if_neg (Nat.not_lt.mpr ha), if_neg (Nat.not_lt.mpr ha)⟩

/-! ### Free values in the DST window (R1102, R1113) -/

/-- What a byte below 2^32 reads after the DST window took free values, whether or not that window ends below 2^32. -/
theorem read_scrambleDst {s : State} {a : Nat} (hm : s.mem.wf = true) (ha : a < 2 ^ 32) :
    s.scrambleDst.mem.read a =
      if s.dstA ≤ a ∧ a < s.dstA + s.dstN then Config.freeValue s.draw a 8 else s.mem.read a := by
  have hspace : a < Config.addrSpace := ha
  split
  next hin =>
    refine read_scramble_inside hm (clipLen_fits s.latch.dstAddr.isLt.le) hin.1 ?_
    change a < s.dstA + clipLen s.dstA s.dstN
    unfold clipLen
    omega
  next hout => exact scrambleDst_outside s a (by omega)

/-- R1113: of memory, a disturbed command changes its DST window only. -/
theorem read_anyOutputs {i : Instr} {s : State} {a : Nat} (hm : s.mem.wf = true) (ha : a < 2 ^ 32) :
    (s.anyOutputs i).mem.read a =
      if usesDst i = true ∧ s.dstA ≤ a ∧ a < s.dstA + s.dstN then Config.freeValue s.draw a 8 else s.mem.read a := by
  obtain ⟨-, -, -, -, -, -, -, -, -, -, -, -, hkept, hfree⟩ := anyOutputs_spec i s
  cases hdst : usesDst i with
  | false => simp [hkept hdst]
  | true => simp [-scrambleDst_mem, hfree hdst, read_scrambleDst hm ha]

theorem exec_of_disturbed {i : Instr} {s : State} (hd : s.disturbed = true)
    (huses : usesSrc i = true ∨ usesDst i = true) : exec i s = .next (s.anyOutputs i) := by
  rw [exec_eq, if_pos (by rwa [Bool.or_eq_true]), windowed, if_pos hd]

/-- Settles O19: a disturbed command answers `State.anyOutputs` (`exec_of_disturbed`), which completes
(`anyOutputs_spec`) and frees its DST window (`read_anyOutputs`). -/
theorem disturbedCommandStillCompletes : Obligations.DisturbedCommandStillCompletes := by
  unfold Obligations.DisturbedCommandStillCompletes
  intro i s hd huses hm
  obtain ⟨hbusy, herr, hdropped, hecode, -, hargs, -⟩ := anyOutputs_spec i s
  exact ⟨_, exec_of_disturbed hd huses, hbusy, by rw [herr, Bool.not_not], hecode, hargs, hdropped,
    fun a ha => read_anyOutputs hm ha⟩

/-! ### Reset (R1100 to R1102) -/

theorem atByte_replicate {α : Type} (x : α) (b : Byte) : atByte (Vector.replicate 256 x) b = x :=
  Vector.getElem_replicate _

/-- R1100: the table of reset values. -/
theorem regValue_reset (r : Reg) :
    regValue State.reset r = match r with
      | .id => 0x484C0001#32
      | .ctrl => 0x00000001#32
      | _ => 0#32 := by
  cases r with
  | freq b => exact atByte_replicate _ b
  | codeLen b => exact congrArg (BitVec.setWidth 32) (atByte_replicate _ b)
  | codeBits b k =>
    have hword := congrArg (BitVec.extractLsb' (32 * k.val) 32) (atByte_replicate 0#256 b)
    exact hword.trans BitVec.extractLsb'_zero
  | nodePrio i => exact congrArg Node.prio (nodeAt_zeroNodes i)
  | nodeLink i => exact congrArg linkWord (nodeAt_zeroNodes i)
  | _ => rfl

/-- R1100: no register keeps anything of the state before the reset. -/
theorem regValue_hardReset (s : State) (r : Reg) : regValue s.hardReset r = regValue State.reset r := by
  cases r <;> rfl

/-- With nothing scheduled, an idle engine waits (R302). -/
theorem step_of_waiting {s : State} (hidle : s.status.busy = false) (h : s.turns = []) : step s = .next s := by
  rw [step_of_no_turns h, engineTurn_of_idle hidle]

/-- Settles O20: the reset values are tabulated (`regValue_reset`), a reset of any state has them
(`regValue_hardReset`), and it leaves the engine idle (`step_of_waiting`). -/
theorem resetClearsEveryRegister : Obligations.ResetClearsEveryRegister := by
  unfold Obligations.ResetClearsEveryRegister
  exact ⟨regValue_reset, rfl, rfl, rfl, step_of_waiting rfl rfl, fun s =>
    ⟨regValue_hardReset s, rfl, rfl, rfl, step_of_waiting (s := s.hardReset) rfl⟩⟩

/-- R1101, R1102: of memory, a reset changes the DST window of a running command only. -/
theorem read_resetMem {s : State} {a : Nat} (hm : s.mem.wf = true) (ha : a < 2 ^ 32) :
    s.resetMem.read a = if s.runningHas inDst a = true then Config.freeValue s.draw a 8 else s.mem.read a := by
  unfold State.resetMem State.runningHas
  cases s.status.busy with
  | false => simp
  | true =>
    cases s.command with
    | none => simp
    | some i => cases hdst : usesDst i <;> simp [-scrambleDst_mem, inDst_iff, hdst, read_scrambleDst hm ha]

/-- Settles O21: the registers are those of a reset (`regValue_hardReset`), and memory is as before but for the DST
window of a running command (`read_resetMem`). -/
theorem resetEventKeepsMemory : Obligations.ResetEventKeepsMemory := by
  unfold Obligations.ResetEventKeepsMemory
  intro s ts hturns hm
  refine ⟨({ s with turns := ts } : State).hardReset, by rw [step, hturns], rfl, rfl, regValue_hardReset _,
    fun a ha => ?_⟩
  have hread : ({ s with turns := ts } : State).resetMem.read a = _ := read_resetMem hm ha
  rw [← runningHas_iff]
  exact ⟨fun h => hread.trans (if_pos h), fun h => hread.trans (if_neg h)⟩

/-- Settles O56: after reset no command runs, no table is marked valid and no turn is scheduled, so each part's premise
fails; the platform is that of log 3, and memory is empty (`reset_mem_wf`). -/
theorem invHoldsAtReset : Obligations.InvHoldsAtReset := by
  unfold Obligations.InvHoldsAtReset
  have hplat : Platform.atReset.wf = true := by decide
  exact ⟨⟨⟨nofun, nofun, by decide, nofun, nofun, hplat⟩, nofun, nofun, reset_mem_wf⟩, rfl⟩

end Sys2Proof.Machine
end
